-- ==== Sys2Proof/Word.lean ====
section
/-! DEFINITION. The words of the machine and the field of its arithmetic (spec/00_scope.md R9, R13, R14). -/

namespace Sys2Proof

/-- A 32-bit word: an instruction, an IMEM word, a host-port word (R300, R201). -/
abbrev Word := BitVec 32

/-- A byte of DMEM (R200). -/
abbrev Byte := BitVec 8

/-- The field modulus 2^255 - 19 (R9, R10). -/
def P : Nat := 2 ^ 255 - 19

theorem P_pos : 0 < P := by decide

/-- A canonical field element: a natural number below `P` (R14, R102). -/
abbrev Fe := Fin P

/-- The canonical representative of `n` modulo `P` (R13). -/
def Fe.ofNat (n : Nat) : Fe := ⟨n % P, Nat.mod_lt n P_pos⟩

end Sys2Proof
end

