-- ==== Sys2Proof/Syntax.lean ====
section
/-! DEFINITION. The instructions of XFC ISA version 1, one constructor per row of spec/opcode_table.json
(spec/30_encoding.md R303 to R305). Operands are the values the fields name, never raw encodings. -/

namespace Sys2Proof

/-- A field register f0..f15 (R101, R303). -/
abbrev FReg := Fin 16

/-- A scalar register s0..s3 (R104, R303). -/
abbrev SReg := Fin 4

/-- An index of the constant ROM (R132, R304). -/
abbrev RomIx := Fin 8

/-- A DMEM slot (R206, R304). -/
abbrev Slot := Fin 32

/-- A bit index 0..255 (R304). -/
abbrev BitIx := Fin 256

/-- The four modes of CFLG (R456). -/
inductive CflgMode where
  | zero  -- C <- 0
  | one   -- C <- 1
  | sg    -- C <- SG
  | not   -- C <- 1 - C
  deriving DecidableEq, Repr

/-- One constructor per row of the opcode table, operands in assembly order (R305, R310). -/
inductive Instr where
  | halt
  | nop
  | add (fd fa fb : FReg)
  | sub (fd fa fb : FReg)
  | mul (fd fa fb : FReg)
  | sqr (fd fa : FReg)
  | neg (fd fa : FReg)
  | mov (fd fa : FReg)
  | ldc (fd : FReg) (k : RomIx)
  | inv (fd fa : FReg)
  | sqrt (fd fa : FReg)
  | csel (fd fa fb : FReg)
  | cswap (fa fb : FReg)
  | ceq (fa fb : FReg)
  | cbitf (fa : FReg) (n : BitIx)
  | cbits (sa : SReg) (n : BitIx)
  | cflg (mode : CflgMode)
  | m2e (fd fa : FReg)
  | e2m (fd fa : FReg)
  | clamp (sd sa : SReg)
  | rnd (sd : SReg)
  | ldu (fd : FReg) (slot : Slot)
  | lde (fd : FReg) (slot : Slot)
  | lds (sd : SReg) (slot : Slot)
  | stf (slot : Slot) (fs : FReg)
  | sts (slot : Slot) (ss : SReg)
  deriving DecidableEq, Repr

end Sys2Proof
end

