-- ==== Sys2Proof/WellFormed.lean ====
section
/-! DEFINITION. When the fields of an instruction word are well formed: the must-be-zero bits of each format
(spec/30_encoding.md R301, R302). The operands of `Instr` are well formed by their types, so the checks
stand where an ill-formed term can exist: on the raw fields, before they become an `Instr`. -/

namespace Sys2Proof

/-- The five fields of every instruction word (R301). -/
structure Fields where
  op  : BitVec 6    -- w[31:26]
  x   : BitVec 4    -- w[25:22]
  y   : BitVec 4    -- w[21:18]
  z   : BitVec 4    -- w[17:14]
  imm : BitVec 14   -- w[13:0]
  deriving DecidableEq, Repr

/-- The fourteen formats (R302). -/
inductive Format where
  | n | fff | ff | fk | pff | bf | bs | mode | ss | s | fm | sm | mf | ms
  deriving DecidableEq, Repr

/-- The scalar-register check of R303: the high two bits of the 4-bit field are zero. -/
def scalarField (x : BitVec 4) : Bool := x.toNat < 4

/-- The must-be-zero check of each format (R302). -/
def Format.accepts (fmt : Format) (f : Fields) : Bool :=
  match fmt with
  | .n    => f.x == 0 && f.y == 0 && f.z == 0 && f.imm == 0
  | .fff  => f.imm == 0
  | .ff   => f.z == 0 && f.imm == 0
  | .fk   => f.y == 0 && f.z == 0 && decide (f.imm.toNat < 8)
  | .pff  => f.x == 0 && f.imm == 0
  | .bf   => f.x == 0 && f.z == 0 && decide (f.imm.toNat < 256)
  | .bs   => f.x == 0 && scalarField f.y && f.z == 0 && decide (f.imm.toNat < 256)
  | .mode => f.x == 0 && f.y == 0 && f.z == 0 && decide (f.imm.toNat < 4)
  | .ss   => scalarField f.x && scalarField f.y && f.z == 0 && f.imm == 0
  | .s    => scalarField f.x && f.y == 0 && f.z == 0 && f.imm == 0
  | .fm   => f.y == 0 && f.z == 0 && decide (f.imm.toNat < 32)
  | .sm   => scalarField f.x && f.y == 0 && f.z == 0 && decide (f.imm.toNat < 32)
  | .mf   => f.y == 0 && f.z == 0 && decide (f.imm.toNat < 32)
  | .ms   => scalarField f.x && f.y == 0 && f.z == 0 && decide (f.imm.toNat < 32)

end Sys2Proof
end

