-- ==== Sys2Proof/Decode.lean ====
section
/-! DEFINITION. Decoding, total on every 32-bit word and rejecting by name, and the encoder
(spec/30_encoding.md R300 to R309). -/

namespace Sys2Proof

/-- Why a word is no instruction; every such word is illegal (R307). -/
inductive DecodeError where
  | unassignedOpcode (op : BitVec 6)   -- R307 (a), (b)
  | reservedBits (fmt : Format)        -- R307 (c)
  deriving DecidableEq, Repr

/-- The field positions of R301. -/
def Fields.ofWord (w : Word) : Fields where
  op  := w.extractLsb' 26 6
  x   := w.extractLsb' 22 4
  y   := w.extractLsb' 18 4
  z   := w.extractLsb' 14 4
  imm := w.extractLsb' 0 14

/-- The word whose fields these are (R301). -/
def Fields.toWord (f : Fields) : Word :=
  f.op ++ f.x ++ f.y ++ f.z ++ f.imm

/-- The mask of each format: OP and its must-be-zero bits (R302). -/
def Format.mask : Format → Word
  | .n    => 0xFFFFFFFF
  | .fff  => 0xFC003FFF
  | .ff   => 0xFC03FFFF
  | .fk   => 0xFC3FFFF8
  | .pff  => 0xFFC03FFF
  | .bf   => 0xFFC3FF00
  | .bs   => 0xFFF3FF00
  | .mode => 0xFFFFFFFC
  | .ss   => 0xFF33FFFF
  | .s    => 0xFF3FFFFF
  | .fm   => 0xFC3FFFE0
  | .sm   => 0xFF3FFFE0
  | .mf   => 0xFC3FFFE0
  | .ms   => 0xFF3FFFE0

/-- A field-register operand: the 4-bit field as an unsigned index (R303). -/
def fregOf (x : BitVec 4) : FReg := ⟨x.toNat, x.isLt⟩

/-- A scalar-register operand: the low two bits of the field (R303). -/
def sregOf (x : BitVec 4) : SReg := ⟨x.toNat % 4, Nat.mod_lt _ (by decide)⟩

/-- `k = IMM[2:0]` (R304). -/
def romIxOf (imm : BitVec 14) : RomIx := ⟨imm.toNat % 8, Nat.mod_lt _ (by decide)⟩

/-- `slot = IMM[4:0]` (R304). -/
def slotOf (imm : BitVec 14) : Slot := ⟨imm.toNat % 32, Nat.mod_lt _ (by decide)⟩

/-- `n = IMM[7:0]` (R304). -/
def bitIxOf (imm : BitVec 14) : BitIx := ⟨imm.toNat % 256, Nat.mod_lt _ (by decide)⟩

/-- `mode = IMM[1:0]`: 0 is `0`, 1 is `1`, 2 is `sg`, 3 is `not` (R456). -/
def cflgModeOf (imm : BitVec 14) : CflgMode :=
  match imm.toNat % 4 with
  | 0 => .zero
  | 1 => .one
  | 2 => .sg
  | _ => .not

/-- The instruction of a row once its opcode is known, if the must-be-zero bits are zero (R302, R307 (c)). -/
def row (fmt : Format) (f : Fields) (i : Instr) : Except DecodeError Instr :=
  if fmt.accepts f then .ok i else .error (.reservedBits fmt)

/-- The opcode map (R305); an opcode not listed is unassigned (R307). -/
def decodeFields (f : Fields) : Except DecodeError Instr :=
  match f.op.toNat with
  | 0x01 => row .n    f .halt
  | 0x02 => row .n    f .nop
  | 0x04 => row .fff  f (.add (fregOf f.x) (fregOf f.y) (fregOf f.z))
  | 0x05 => row .fff  f (.sub (fregOf f.x) (fregOf f.y) (fregOf f.z))
  | 0x06 => row .fff  f (.mul (fregOf f.x) (fregOf f.y) (fregOf f.z))
  | 0x07 => row .ff   f (.sqr (fregOf f.x) (fregOf f.y))
  | 0x08 => row .ff   f (.neg (fregOf f.x) (fregOf f.y))
  | 0x09 => row .ff   f (.mov (fregOf f.x) (fregOf f.y))
  | 0x0A => row .fk   f (.ldc (fregOf f.x) (romIxOf f.imm))
  | 0x0C => row .ff   f (.inv (fregOf f.x) (fregOf f.y))
  | 0x0D => row .ff   f (.sqrt (fregOf f.x) (fregOf f.y))
  | 0x10 => row .fff  f (.csel (fregOf f.x) (fregOf f.y) (fregOf f.z))
  | 0x11 => row .pff  f (.cswap (fregOf f.y) (fregOf f.z))
  | 0x12 => row .pff  f (.ceq (fregOf f.y) (fregOf f.z))
  | 0x13 => row .bf   f (.cbitf (fregOf f.y) (bitIxOf f.imm))
  | 0x14 => row .bs   f (.cbits (sregOf f.y) (bitIxOf f.imm))
  | 0x15 => row .mode f (.cflg (cflgModeOf f.imm))
  | 0x18 => row .ff   f (.m2e (fregOf f.x) (fregOf f.y))
  | 0x19 => row .ff   f (.e2m (fregOf f.x) (fregOf f.y))
  | 0x1C => row .ss   f (.clamp (sregOf f.x) (sregOf f.y))
  | 0x1D => row .s    f (.rnd (sregOf f.x))
  | 0x20 => row .fm   f (.ldu (fregOf f.x) (slotOf f.imm))
  | 0x21 => row .fm   f (.lde (fregOf f.x) (slotOf f.imm))
  | 0x22 => row .sm   f (.lds (sregOf f.x) (slotOf f.imm))
  | 0x24 => row .mf   f (.stf (slotOf f.imm) (fregOf f.x))
  | 0x25 => row .ms   f (.sts (slotOf f.imm) (sregOf f.x))
  | _    => .error (.unassignedOpcode f.op)

/-- Decoding of a word (R306). -/
def decode (w : Word) : Except DecodeError Instr := decodeFields (Fields.ofWord w)

/-- The format of each instruction (R305). -/
def Instr.format : Instr → Format
  | .halt | .nop => .n
  | .add .. | .sub .. | .mul .. | .csel .. => .fff
  | .sqr .. | .neg .. | .mov .. | .inv .. | .sqrt .. | .m2e .. | .e2m .. => .ff
  | .ldc .. => .fk
  | .cswap .. | .ceq .. => .pff
  | .cbitf .. => .bf
  | .cbits .. => .bs
  | .cflg .. => .mode
  | .clamp .. => .ss
  | .rnd .. => .s
  | .ldu .. | .lde .. => .fm
  | .lds .. => .sm
  | .stf .. => .mf
  | .sts .. => .ms

/-- The OP value of each instruction (R305). -/
def Instr.opcode : Instr → BitVec 6
  | .halt => 0x01
  | .nop => 0x02
  | .add .. => 0x04
  | .sub .. => 0x05
  | .mul .. => 0x06
  | .sqr .. => 0x07
  | .neg .. => 0x08
  | .mov .. => 0x09
  | .ldc .. => 0x0A
  | .inv .. => 0x0C
  | .sqrt .. => 0x0D
  | .csel .. => 0x10
  | .cswap .. => 0x11
  | .ceq .. => 0x12
  | .cbitf .. => 0x13
  | .cbits .. => 0x14
  | .cflg .. => 0x15
  | .m2e .. => 0x18
  | .e2m .. => 0x19
  | .clamp .. => 0x1C
  | .rnd .. => 0x1D
  | .ldu .. => 0x20
  | .lde .. => 0x21
  | .lds .. => 0x22
  | .stf .. => 0x24
  | .sts .. => 0x25

/-- The match value of each instruction: `OP << 26` (R305). -/
def Instr.matchWord (i : Instr) : Word := i.opcode ++ (0 : BitVec 26)

/-- The mode number of CFLG (R456). -/
def CflgMode.number : CflgMode → Nat
  | .zero => 0
  | .one => 1
  | .sg => 2
  | .not => 3

/-- The 4-bit field that names register `r` (R303). -/
def regField (r : Nat) : BitVec 4 := BitVec.ofNat 4 r

/-- The 14-bit immediate that holds `n` (R304). -/
def immField (n : Nat) : BitVec 14 := BitVec.ofNat 14 n

/-- The fields of an instruction's word; every field a format does not use is zero (R302). -/
def Instr.fields (i : Instr) : Fields :=
  match i with
  | .halt | .nop => ⟨i.opcode, 0, 0, 0, 0⟩
  | .add d a b | .sub d a b | .mul d a b | .csel d a b =>
    ⟨i.opcode, regField d, regField a, regField b, 0⟩
  | .sqr d a | .neg d a | .mov d a | .inv d a | .sqrt d a | .m2e d a | .e2m d a =>
    ⟨i.opcode, regField d, regField a, 0, 0⟩
  | .ldc d k => ⟨i.opcode, regField d, 0, 0, immField k⟩
  | .cswap a b | .ceq a b => ⟨i.opcode, 0, regField a, regField b, 0⟩
  | .cbitf a n => ⟨i.opcode, 0, regField a, 0, immField n⟩
  | .cbits a n => ⟨i.opcode, 0, regField a, 0, immField n⟩
  | .cflg m => ⟨i.opcode, 0, 0, 0, immField m.number⟩
  | .clamp d a => ⟨i.opcode, regField d, regField a, 0, 0⟩
  | .rnd d => ⟨i.opcode, regField d, 0, 0, 0⟩
  | .ldu d k | .lde d k => ⟨i.opcode, regField d, 0, 0, immField k⟩
  | .lds d k => ⟨i.opcode, regField d, 0, 0, immField k⟩
  | .stf k r => ⟨i.opcode, regField r, 0, 0, immField k⟩
  | .sts k r => ⟨i.opcode, regField r, 0, 0, immField k⟩

/-- The word of an instruction (R309). -/
def encode (i : Instr) : Word := i.fields.toWord

/-- An instruction is well formed when its fields pass its format's checks (R302). -/
def Instr.wellFormed (i : Instr) : Bool := i.format.accepts i.fields

/-- The instruction read from the low `nbits` bits of `w`, bit 0 least significant, every bit above zero.
An instruction is one whole IMEM word, so no byte order enters (R205, R300). -/
def decodeTableWord (nbits w : Nat) : Option Instr :=
  (decode (BitVec.ofNat 32 (w % 2 ^ nbits))).toOption

end Sys2Proof
end

