-- ==== Sys2Proof/Config.lean ====
section
/-! DEFINITION. What the spec leaves open: free values and named parameters, each an opaque constant with no body,
so that every statement holds whatever they are (spec/93_implementation_defined.md part 1). -/

namespace Sys2Proof

/-- What the RNG collaborator does with one request (spec/20_memory.md R220, 93 U8, U9). -/
inductive RngAnswer where
  | ok (b : BitVec 256)  -- 32 bytes, read as a little-endian integer
  | fail                 -- the collaborator reports failure
  | silent               -- the collaborator never answers this request
  deriving DecidableEq, Repr, Inhabited

/-- Contents of IMEM word `i` at power-on number `p`, until the host writes it (R803, U10; log entry 1). -/
opaque Config.powerOnWord (p i : Nat) : Word

/-- Contents of DMEM byte `a` at power-on number `p`, until it is written (R803, U11; log entry 1). -/
opaque Config.powerOnByte (p a : Nat) : Byte

/-- The collaborator's answer to RNG request number `n` (R220, U8; log entry 4). -/
opaque Config.rngAnswer (n : Nat) : RngAnswer

/-- What timing makes of the `n`-th PC read during a run; reduced into 0..8192 where used (R125, U13; log entry 7). -/
opaque Config.busyPc (n : Nat) : Nat

/-- What timing makes of the `n`-th RETIRED read during a run; reduced into 0 to the run's final count where used
(R127, U14; log entry 7). -/
opaque Config.busyRetired (n : Nat) : Nat

/-- `LAT_<mnemonic>`: cycles of an instruction, by opcode alone; no rule reads it (R9, R809, R810, U15; log entry 14). -/
opaque Config.lat (op : BitVec 6) : Nat

/-- `XFC_BASE`: where the core's host map sits in the platform's address space (R9, R716, U16; log entry 15). -/
opaque Config.xfcBase : Nat

end Sys2Proof
end

