-- ==== Sys2Proof/Machine/State.lean ====
section
/-! DEFINITION. The state of one core as plain data, and its reset value (spec/10_state.md, 70_reset_and_hazards.md R801). -/

namespace Sys2Proof.Machine

/-- A sparse memory: (address, unit) pairs in rising order of address. An address that is not listed
has not been written since power-on (R803; log entry 1). -/
abbrev Memory (w : Nat) := List (Nat × BitVec w)

/-- The trap causes, with their codes in CAUSE (spec/60_exceptions.md R700). -/
inductive Cause where
  | none                -- 0
  | illegalInstruction  -- 1
  | fetchBound          -- 2
  | rngFailure          -- 3
  | notASquare          -- 4
  | invalidPoint        -- 5
  | invalidEncoding     -- 6
  deriving DecidableEq, Repr

/-- One host-port access: every access moves 32 bits (spec/20_memory.md R201, R202). -/
inductive HostAccess where
  | read (ha : BitVec 16)
  | write (ha : BitVec 16) (wdata : Word)
  deriving DecidableEq, Repr

/-- Whose step comes next (R16; log entry 3). -/
inductive Turn where
  | sequencer              -- one step of R650, or nothing while idle
  | host (a : HostAccess)  -- one access at the host port
  | reset (cut : BitVec 32)
      -- `rst` is asserted (R800); if it cuts an STF or STS, `cut` says which bytes of the slot it had written (R802; log entry 6)
  deriving DecidableEq, Repr

/-- The architectural state (R100), then the model's own fields (INVENTORY.md, State). -/
structure State where
  /-- F: f0..f15, each below P (R101, R102). -/
  f : Vector Fe 16
  /-- S: s0..s3 (R104). -/
  sc : Vector (BitVec 256) 4
  /-- C, the condition flag (R107). -/
  c : Bool
  /-- SG, the sign flag (R108). -/
  sg : Bool
  /-- pc, an IMEM word index (R109). -/
  pc : BitVec 14
  /-- CTRL.IE (R115). -/
  ie : Bool
  /-- CTRL.STRICT (R116). -/
  strict : Bool
  /-- STATUS.BUSY (R118). -/
  busy : Bool
  /-- STATUS.DONE (R119). -/
  done : Bool
  /-- STATUS.FAULT (R120). -/
  faulted : Bool
  /-- STATUS.HACC (R121). -/
  hacc : Bool
  /-- CAUSE (R123). -/
  cause : Cause
  /-- EPC (R124). -/
  epc : BitVec 14
  /-- The PC CSR as it reads while idle (R125, R806). -/
  pcCsr : BitVec 14
  /-- ENTRY (R126). -/
  entry : BitVec 13
  /-- RETIRED (R127). -/
  retired : BitVec 32
  /-- IMEM: 8192 words, the written ones listed (R129, R205). -/
  imem : Memory 32
  /-- DMEM: 1024 bytes, the written ones listed (R129, R206). -/
  dmem : List Host.Cell
  /-- An RNG request is in flight (R131, R801). -/
  rngBusy : Bool
  /-- Model's own: which power-on's unspecified contents these are (log entry 1). -/
  powerOn : Nat
  /-- Model's own: answers the RNG collaborator has ready, oldest first (log entry 4). -/
  rngAnswers : List RngAnswer
  /-- Model's own: RNG requests closed so far (log entry 4). -/
  rngDraws : Nat
  /-- Model's own: timing-dependent CSR reads answered so far (log entry 7). -/
  busyReads : Nat
  /-- Model's own: the word the host port answered its last read with (log entry 8). -/
  hostData : Word
  /-- Model's own: the coming turns; when empty, every turn is the sequencer's (log entry 3). -/
  turns : List Turn
  deriving DecidableEq, Repr

/-- Where the model stops. A trap of the core is no fault of the model: it is a next state (R708). -/
inductive Fault where
  /-- Raised by the sequencer's fetch at a pc of 8193..16383, an IMEM word that does not exist (R129).
  Safe: no run reaches such a pc (R109), and the model only stops there (log entry 10). -/
  | imemIndexAbsent (pc : BitVec 14)
  deriving DecidableEq, Repr

/-- No meaning for an instruction. -/
inductive Refusal where
  /-- Raised by an arm of `exec` whose instruction has no meaning yet; no arm is. Safe: the model only stops. -/
  | notModelled (mnemonic : String)
  deriving DecidableEq, Repr

/-- The outcome of one instruction or one step. -/
abbrev Result := Host.Outcome State Fault Refusal

/-- The machine right after power-on and reset (R801); nothing of IMEM or DMEM has been written (R803). -/
def State.reset : State where
  f := Vector.replicate 16 (Fe.ofNat 0)
  sc := Vector.replicate 4 0
  c := false
  sg := false
  pc := 0
  ie := false
  strict := false
  busy := false
  done := false
  faulted := false
  hacc := false
  cause := .none
  epc := 0
  pcCsr := 0
  entry := 0
  retired := 0
  imem := []
  dmem := []
  rngBusy := false
  powerOn := 0
  rngAnswers := []
  rngDraws := 0
  busyReads := 0
  hostData := 0
  turns := []

end Sys2Proof.Machine
end

