-- ==== Sys2Proof/Machine/Ops.lean ====
section
/-! DEFINITION. The named operations over memories, registers and the run: reads, writes, retiring, taking a trap,
ending and starting a run, the RNG request (spec/00_scope.md R12, 60_exceptions.md R708, 70_reset_and_hazards.md R805, R806).
There is no return from a trap (R710): the way on after one is the host's START, `acceptStart`. -/

namespace Sys2Proof.Machine

/-! ### Memories -/

/-- The value listed at address `a`, if any. -/
def Memory.get? {w : Nat} : Memory w → Nat → Option (BitVec w)
  | [], _ => none
  | (b, v) :: m, a => if a = b then some v else Memory.get? m a

/-- Write `v` at address `a`, keeping the addresses in rising order. -/
def Memory.set {w : Nat} : Memory w → Nat → BitVec w → Memory w
  | [], a, v => [(a, v)]
  | (b, u) :: m, a, v =>
    if a < b then (a, v) :: (b, u) :: m
    else if a = b then (a, v) :: m
    else (b, u) :: Memory.set m a v

/-- The addresses rise strictly and all lie in `lo .. size - 1`. -/
def Memory.wfFrom {w : Nat} (size : Nat) : Nat → Memory w → Bool
  | _, [] => true
  | lo, (a, _) :: m => decide (lo ≤ a) && decide (a < size) && Memory.wfFrom size (a + 1) m

/-- The canonical form of a memory of `size` units (log entry 1). -/
def Memory.wf {w : Nat} (size : Nat) (m : Memory w) : Bool := Memory.wfFrom size 0 m

/-- IMEM holds 8192 words (R9). -/
def imemWords : Nat := 8192

/-- DMEM holds 1024 bytes (R9). -/
def dmemBytes : Nat := 1024

/-- IMEM word `i`: the written word, or the unspecified power-on content (R129, R803). -/
def State.imemWord (s : State) (i : Nat) : Word :=
  (Memory.get? s.imem i).getD (Config.powerOnWord s.powerOn i)

/-- DMEM byte `a`: the written byte, or the unspecified power-on content (R129, R803). -/
def State.dmemByte (s : State) (a : Nat) : Byte :=
  (Memory.get? s.dmem a).getD (Config.powerOnByte s.powerOn a)

/-- `DMEM[a] <- v`. -/
def State.setByte (s : State) (a : Nat) (v : Byte) : State :=
  { s with dmem := Memory.set s.dmem a v }

/-- `IMEM[i] <- v`. -/
def State.setImemWord (s : State) (i : Nat) (v : Word) : State :=
  { s with imem := Memory.set s.imem i v }

/-- `MemRead(addr, n)`: `n` bytes as one little-endian integer (R12). -/
def State.memRead (s : State) (addr : Nat) : Nat → Nat
  | 0 => 0
  | n + 1 => (s.dmemByte addr).toNat + 256 * State.memRead s (addr + 1) n

/-- `MemWrite(addr, n, v)`: `n` bytes, byte `j` being `v[8j+7:8j]` (R12). -/
def State.memWrite (s : State) (addr : Nat) : Nat → Nat → State
  | 0, _ => s
  | n + 1, v => State.memWrite (s.setByte addr (BitVec.ofNat 8 v)) (addr + 1) n (v / 256)

/-- `slot(k)`: the byte offset of slot `k` (R12, R206). -/
def slotOffset (k : Slot) : Nat := 32 * k.val

/-! ### Registers and flags -/

/-- `F[r]`. -/
def State.readF (s : State) (r : FReg) : Fe := s.f[r.val]

/-- `F[r] <- v`. -/
def State.setF (s : State) (r : FReg) (v : Fe) : State := { s with f := s.f.set r.val v }

/-- `S[r]`. -/
def State.readS (s : State) (r : SReg) : BitVec 256 := s.sc[r.val]

/-- `S[r] <- v`. -/
def State.setS (s : State) (r : SReg) (v : BitVec 256) : State := { s with sc := s.sc.set r.val v }

/-- `C <- b`. -/
def State.setC (s : State) (b : Bool) : State := { s with c := b }

/-- `SG <- b`. -/
def State.setSG (s : State) (b : Bool) : State := { s with sg := b }

/-! ### The run -/

/-- `RETIRED <- RETIRED + 1` (R127, R650). -/
def State.count (s : State) : State := { s with retired := s.retired + 1 }

/-- An instruction other than HALT retires: `RETIRED <- RETIRED + 1`, `pc <- pc + 1` (R109, R650). -/
def State.retire (s : State) : State := { s.count with pc := s.pc + 1 }

/-- F, S, C and SG to 0 (R805, R806). -/
def State.zeroize (s : State) : State :=
  { s with f := Vector.replicate 16 (Fe.ofNat 0), sc := Vector.replicate 4 0, c := false, sg := false }

/-- `EndRun(kind)`, `trapped` saying which kind (R806). -/
def State.endRun (s : State) (trapped : Bool) : State :=
  { s.zeroize with faulted := trapped, done := true, busy := false, pcCsr := s.pc }

/-- Trap entry (R708): CAUSE and EPC are recorded and the run ends; pc keeps its value. -/
def State.takeTrap (s : State) (cause : Cause) : State :=
  State.endRun { s with cause := cause, epc := s.pc } true

/-- An accepted START, once IE and STRICT are written (R805). -/
def State.acceptStart (s : State) : State :=
  { s.zeroize with
    done := false, faulted := false, cause := .none, epc := 0, retired := 0
    pc := s.entry.setWidth 14, busy := true }

/-! ### The RNG port -/

/-- What the collaborator does with the request in hand: the oldest answer it has ready, else a free answer
(R220; log entry 4). -/
def State.rngAnswer (s : State) : RngAnswer :=
  match s.rngAnswers with
  | a :: _ => a
  | [] => Config.rngAnswer s.rngDraws

/-- The request in hand is closed: the next request gets the next answer. -/
def State.closeRequest (s : State) : State :=
  { s with rngAnswers := s.rngAnswers.tail, rngDraws := s.rngDraws + 1, rngBusy := false }

/-- The request in hand stays in flight (R131, R811; log entry 5). -/
def State.awaitRng (s : State) : State := { s with rngBusy := true }

end Sys2Proof.Machine
end

