-- ==== Sys2Proof/Machine/Operands.lean ====
section
/-! DEFINITION. The values the instructions compute: field arithmetic, the constant ROM, the square root, the birational map,
clamping, and the decoding of a 32-byte slot (spec/00_scope.md R13, R15; 10_state.md R132; 40, 42, 43, 44). -/

namespace Sys2Proof.Machine

/-! ### Field arithmetic (R13) -/

/-- `(a + b) mod P`. -/
def fadd (a b : Fe) : Fe := Fe.ofNat (a.val + b.val)

/-- `(a - b) mod P`, never negative. -/
def fsub (a b : Fe) : Fe := Fe.ofNat (a.val + (P - b.val))

/-- `(a * b) mod P`. -/
def fmul (a b : Fe) : Fe := Fe.ofNat (a.val * b.val)

/-- `(P - a) mod P`. -/
def fneg (a : Fe) : Fe := Fe.ofNat (P - a.val)

/-- `acc * b ^ e mod P` for `e < 2 ^ k`, by squaring. -/
def powMod (b e : Nat) : Nat → Nat → Nat
  | 0, acc => acc
  | k + 1, acc => powMod (b * b % P) (e / 2) k (if e % 2 = 1 then acc * b % P else acc)

/-- `a ^ e mod P`. Only the value is architectural (R408, U2; log entry 12). -/
def fpow (a : Fe) (e : Nat) : Fe := Fe.ofNat (powMod a.val e (e.log2 + 1) 1)

/-- `a ^ (P - 2) mod P`; 0 for 0 (R408). -/
def finv (a : Fe) : Fe := fpow a (P - 2)

/-- 1 in the field. -/
def feOne : Fe := Fe.ofNat 1

/-- 0 in the field. -/
def feZero : Fe := Fe.ofNat 0

/-! ### Constants -/

/-- `SQRT_M1`, the square root of -1 that SQRT multiplies by (R15, R132). -/
def sqrtM1 : Fe := Fe.ofNat 0x2b8324804fc1df0b2b4d00993dfbd7a72f431806ad2fe478c4ee1b274a0ea0b0

/-- `D_ED`, the Edwards coefficient d (R15, R132). -/
def dEd : Fe := Fe.ofNat 0x52036cee2b6ffe738cc740797779e89800700a4d4141d8ab75eb4dca135978a3

/-- The constant ROM (R132). -/
def rom (k : RomIx) : Fe :=
  match k with
  | 0 => feZero
  | 1 => feOne
  | 2 => Fe.ofNat 9
  | 3 => Fe.ofNat 486662
  | 4 => Fe.ofNat 121665
  | 5 => sqrtM1
  | 6 => dEd
  | 7 => Fe.ofNat 2

/-! ### Square root (R409) -/

/-- The first candidate, `a ^ ((P + 3) / 8)`. -/
def sqrtFirst (a : Fe) : Fe := fpow a ((P + 3) / 8)

/-- The second candidate, the first times `SQRT_M1`. -/
def sqrtSecond (a : Fe) : Fe := fmul (sqrtFirst a) sqrtM1

/-- The first candidate that squares to `a`, or none. -/
def fsqrt (a : Fe) : Option Fe :=
  if fmul (sqrtFirst a) (sqrtFirst a) = a then some (sqrtFirst a)
  else if fmul (sqrtSecond a) (sqrtSecond a) = a then some (sqrtSecond a)
  else none

/-! ### Birational map (R551, R552) -/

/-- Montgomery u to Edwards y; none where `u + 1 = 0`. -/
def montToEd (u : Fe) : Option Fe :=
  if fadd u feOne = feZero then none
  else some (fmul (fsub u feOne) (finv (fadd u feOne)))

/-- Edwards y to Montgomery u; none where `1 - y = 0`. -/
def edToMont (y : Fe) : Option Fe :=
  if fsub feOne y = feZero then none
  else some (fmul (fadd feOne y) (finv (fsub feOne y)))

/-! ### Clamping (R501) -/

/-- Bits 0, 1, 2 and 255 cleared, bit 254 set, the rest copied. -/
def clampBits (v : BitVec 256) : BitVec 256 :=
  (v &&& ~~~(BitVec.ofNat 256 (2 ^ 255 + 7))) ||| BitVec.ofNat 256 (2 ^ 254)

/-! ### The codec (R601, R602) -/

/-- `v[254:0] mod P` of a 32-byte value: the Montgomery decode. -/
def decodeU (v : Nat) : Fe := Fe.ofNat (v % 2 ^ 255)

/-- The Edwards decode of a 32-byte value: y modulo P and the sign bit; none where the check is strict and y is not canonical. -/
def decodeEd (strict : Bool) (v : Nat) : Option (Fe × Bool) :=
  if strict && decide (P ≤ v % 2 ^ 255) then none
  else some (Fe.ofNat (v % 2 ^ 255), v.testBit 255)

end Sys2Proof.Machine
end

