-- ==== Sys2Proof/Machine/FieldArith.lean ====
section
/-! DEFINITION. The field arithmetic instructions (spec/40_field_arith.md). Every source is read before the destination
is written (R400); no flag, scalar register or memory is written. -/

namespace Sys2Proof.Machine

/-- `F[fd] <- v` and the instruction retires. -/
def retireF (fd : FReg) (v : Fe) (s : State) : State := (s.setF fd v).retire

/-- ADD (R401). -/
def execAdd (fd fa fb : FReg) (s : State) : Result :=
  .next (retireF fd (fadd (s.readF fa) (s.readF fb)) s)

/-- SUB (R402). -/
def execSub (fd fa fb : FReg) (s : State) : Result :=
  .next (retireF fd (fsub (s.readF fa) (s.readF fb)) s)

/-- MUL (R403). -/
def execMul (fd fa fb : FReg) (s : State) : Result :=
  .next (retireF fd (fmul (s.readF fa) (s.readF fb)) s)

/-- SQR (R404). -/
def execSqr (fd fa : FReg) (s : State) : Result :=
  .next (retireF fd (fmul (s.readF fa) (s.readF fa)) s)

/-- NEG (R405). -/
def execNeg (fd fa : FReg) (s : State) : Result :=
  .next (retireF fd (fneg (s.readF fa)) s)

/-- MOV (R406). -/
def execMov (fd fa : FReg) (s : State) : Result :=
  .next (retireF fd (s.readF fa) s)

/-- LDC (R407). -/
def execLdc (fd : FReg) (k : RomIx) (s : State) : Result :=
  .next (retireF fd (rom k) s)

/-- INV: no trap on 0, whose inverse reads 0 (R408). -/
def execInv (fd fa : FReg) (s : State) : Result :=
  .next (retireF fd (finv (s.readF fa)) s)

/-- SQRT: the first candidate that squares to the source, else NOT_A_SQUARE (R409). -/
def execSqrt (fd fa : FReg) (s : State) : Result :=
  .next (match fsqrt (s.readF fa) with
    | some r => retireF fd r s
    | none => s.takeTrap .notASquare)

end Sys2Proof.Machine
end

