-- ==== Sys2Proof/Machine/Scalar.lean ====
section
/-! DEFINITION. The scalar instructions (spec/42_scalar.md). -/

namespace Sys2Proof.Machine

/-- `S[sd] <- v` and the instruction retires. -/
def retireS (sd : SReg) (v : BitVec 256) (s : State) : State := (s.setS sd v).retire

/-- CLAMP (R501). -/
def execClamp (sd sa : SReg) (s : State) : Result :=
  .next (retireS sd (clampBits (s.readS sa)) s)

/-- RND: one request; 32 bytes, or RNG_FAILURE, or, while the collaborator does not answer, the run stays in RND
with the request in flight (R502, R220, R811; log entries 4, 5). -/
def execRnd (sd : SReg) (s : State) : Result :=
  .next (match s.rngAnswer with
    | .ok b => retireS sd b s.closeRequest
    | .fail => s.closeRequest.takeTrap .rngFailure
    | .silent => s.awaitRng)

end Sys2Proof.Machine
end

