-- ==== Sys2Proof/Machine/Codec.lean ====
section
/-! DEFINITION. The compressed-point codec: the loads and stores of one 32-byte slot (spec/44_codec.md R600). -/

namespace Sys2Proof.Machine

/-- The value of a slot (R206). -/
def State.slotValue (s : State) (k : Slot) : Nat := s.memRead (slotOffset k) 32

/-- A slot is written with a 256-bit value and the instruction retires. -/
def retireSlot (k : Slot) (v : Nat) (s : State) : State := (s.memWrite (slotOffset k) 32 v).retire

/-- LDU: the top bit is masked; never a trap (R601). -/
def execLdu (fd : FReg) (k : Slot) (s : State) : Result :=
  .next (retireF fd (decodeU (s.slotValue k)) s)

/-- LDE: INVALID_ENCODING where STRICT = 1 and y is not canonical (R602). -/
def execLde (fd : FReg) (k : Slot) (s : State) : Result :=
  .next (match decodeEd s.strict (s.slotValue k) with
    | some (y, sign) => retireF fd y (s.setSG sign)
    | none => s.takeTrap .invalidEncoding)

/-- LDS: all 256 bits (R603). -/
def execLds (sd : SReg) (k : Slot) (s : State) : Result :=
  .next (retireS sd (BitVec.ofNat 256 (s.slotValue k)) s)

/-- STF: the canonical encoding, so bit 255 is 0 (R604). -/
def execStf (k : Slot) (fs : FReg) (s : State) : Result :=
  .next (retireSlot k (s.readF fs).val s)

/-- STS: all 256 bits (R605). -/
def execSts (k : Slot) (ss : SReg) (s : State) : Result :=
  .next (retireSlot k (s.readS ss).toNat s)

end Sys2Proof.Machine
end

