-- ==== Sys2Proof/Machine/Converter.lean ====
section
/-! DEFINITION. The birational map converter instructions (spec/43_converter.md). -/

namespace Sys2Proof.Machine

/-- M2E: INVALID_POINT where u = P - 1 (R551). -/
def execM2e (fd fa : FReg) (s : State) : Result :=
  .next (match montToEd (s.readF fa) with
    | some y => retireF fd y s
    | none => s.takeTrap .invalidPoint)

/-- E2M: INVALID_POINT where y = 1; SG is not read (R552). -/
def execE2m (fd fa : FReg) (s : State) : Result :=
  .next (match edToMont (s.readF fa) with
    | some u => retireF fd u s
    | none => s.takeTrap .invalidPoint)

end Sys2Proof.Machine
end

