-- ==== Sys2Proof/Machine/Flags.lean ====
section
/-! DEFINITION. What the flag instructions write to C, and the selections that C drives (spec/41_select_flags.md). -/

namespace Sys2Proof.Machine

/-- CEQ: whether two field values are equal (R453). -/
def equalFlag (a b : Fe) : Bool := decide (a = b)

/-- CBITF: bit `n` of a field value; bit 255 is always 0 (R454). -/
def fieldBit (a : Fe) (n : BitIx) : Bool := a.val.testBit n.val

/-- CBITS: bit `n` of a scalar (R455). -/
def scalarBit (v : BitVec 256) (n : BitIx) : Bool := v.getLsbD n.val

/-- CFLG: 0, 1, SG or the inverse of C (R456). -/
def flagOfMode (mode : CflgMode) (c sg : Bool) : Bool :=
  match mode with
  | .zero => false
  | .one => true
  | .sg => sg
  | .not => !c

/-- CSEL: `a` when C = 1, `b` when C = 0 (R451). The masked form of the rule computes the same value
(log entry 13). -/
def select (c : Bool) (a b : Fe) : Fe := if c then a else b

/-- The mask of R451 and R452: 255 ones when C = 1, zeros when C = 0. -/
def condMask (c : Bool) : BitVec 255 := if c then BitVec.allOnes 255 else 0

/-- A field value as the 255 bits of its register (R101). -/
def feBits (a : Fe) : BitVec 255 := BitVec.ofNat 255 a.val

/-- R451's pseudocode word for word: `(a & m) | (b & ~m)`. -/
def maskSelect (c : Bool) (a b : Fe) : BitVec 255 :=
  (feBits a &&& condMask c) ||| (feBits b &&& ~~~(condMask c))

/-- R452's pseudocode word for word: the new Y and Z from `t = (a XOR b) & m`. -/
def maskSwap (c : Bool) (a b : Fe) : BitVec 255 × BitVec 255 :=
  let t := (feBits a ^^^ feBits b) &&& condMask c
  (feBits a ^^^ t, feBits b ^^^ t)

end Sys2Proof.Machine
end

