-- ==== Sys2Proof/Machine/Select.lean ====
section
/-! DEFINITION. The conditional select, swap and flag instructions (spec/41_select_flags.md). All sources, C among them,
are read before anything is written (R450). -/

namespace Sys2Proof.Machine

/-- `C <- b` and the instruction retires. -/
def retireC (b : Bool) (s : State) : State := (s.setC b).retire

/-- CSEL (R451). -/
def execCsel (fd fa fb : FReg) (s : State) : Result :=
  .next (retireF fd (select s.c (s.readF fa) (s.readF fb)) s)

/-- CSWAP: both registers are written, with their own values when C = 0 (R452). -/
def execCswap (fa fb : FReg) (s : State) : Result :=
  .next (retireF fb (select s.c (s.readF fa) (s.readF fb))
    (s.setF fa (select s.c (s.readF fb) (s.readF fa))))

/-- CEQ (R453). -/
def execCeq (fa fb : FReg) (s : State) : Result :=
  .next (retireC (equalFlag (s.readF fa) (s.readF fb)) s)

/-- CBITF (R454). -/
def execCbitf (fa : FReg) (n : BitIx) (s : State) : Result :=
  .next (retireC (fieldBit (s.readF fa) n) s)

/-- CBITS (R455). -/
def execCbits (sa : SReg) (n : BitIx) (s : State) : Result :=
  .next (retireC (scalarBit (s.readS sa) n) s)

/-- CFLG (R456). -/
def execCflg (mode : CflgMode) (s : State) : Result :=
  .next (retireC (flagOfMode mode s.c s.sg) s)

end Sys2Proof.Machine
end

