-- ==== Sys2Proof/Machine/Sequencing.lean ====
section
/-! DEFINITION. The sequencing instructions (spec/45_sequencing.md). -/

namespace Sys2Proof.Machine

/-- `LAT_<mnemonic>`: fixed by the opcode alone; no rule reads it (R809, R810; log entry 14). -/
def latency (i : Instr) : Nat := Config.lat i.opcode

/-- HALT: it retires and the run ends; pc keeps the HALT's index (R651). -/
def execHalt (s : State) : Result := .next (s.count.endRun false)

/-- NOP (R652). -/
def execNop (s : State) : Result := .next s.retire

end Sys2Proof.Machine
end

