-- ==== Sys2Proof/Machine/Dispatch.lean ====
section
/-! DEFINITION. One arm per instruction of the opcode table (spec/30_encoding.md R305). -/

namespace Sys2Proof.Machine

def exec (i : Instr) (s : State) : Host.Outcome State Fault Refusal :=
  match i with
  | .halt => Sys2Proof.Machine.execHalt s
  | .nop => Sys2Proof.Machine.execNop s
  | .add fd fa fb => Sys2Proof.Machine.execAdd fd fa fb s
  | .sub fd fa fb => Sys2Proof.Machine.execSub fd fa fb s
  | .mul fd fa fb => Sys2Proof.Machine.execMul fd fa fb s
  | .sqr fd fa => Sys2Proof.Machine.execSqr fd fa s
  | .neg fd fa => Sys2Proof.Machine.execNeg fd fa s
  | .mov fd fa => Sys2Proof.Machine.execMov fd fa s
  | .ldc fd k => Sys2Proof.Machine.execLdc fd k s
  | .inv fd fa => Sys2Proof.Machine.execInv fd fa s
  | .sqrt fd fa => Sys2Proof.Machine.execSqrt fd fa s
  | .csel fd fa fb => Sys2Proof.Machine.execCsel fd fa fb s
  | .cswap fa fb => Sys2Proof.Machine.execCswap fa fb s
  | .ceq fa fb => Sys2Proof.Machine.execCeq fa fb s
  | .cbitf fa n => Sys2Proof.Machine.execCbitf fa n s
  | .cbits sa n => Sys2Proof.Machine.execCbits sa n s
  | .cflg mode => Sys2Proof.Machine.execCflg mode s
  | .m2e fd fa => Sys2Proof.Machine.execM2e fd fa s
  | .e2m fd fa => Sys2Proof.Machine.execE2m fd fa s
  | .clamp sd sa => Sys2Proof.Machine.execClamp sd sa s
  | .rnd sd => Sys2Proof.Machine.execRnd sd s
  | .ldu fd k => Sys2Proof.Machine.execLdu fd k s
  | .lde fd k => Sys2Proof.Machine.execLde fd k s
  | .lds sd k => Sys2Proof.Machine.execLds sd k s
  | .stf k fs => Sys2Proof.Machine.execStf k fs s
  | .sts k ss => Sys2Proof.Machine.execSts k ss s

end Sys2Proof.Machine
end

