-- ==== Sys2Proof/Machine/Cycle.lean ====
section
/-! DEFINITION. The sequencer's cycle, and how many instructions the run in hand will have counted when it ends
(spec/45_sequencing.md R650, 60_exceptions.md R702, R709, R719, 10_state.md R127, 70_reset_and_hazards.md R811). -/

namespace Sys2Proof.Machine

/-- One step of the sequencer: nothing while idle; else FETCH_BOUND, then ILLEGAL_INSTRUCTION, then the instruction
(R650, R702, R709, R719). -/
def seqStep (s : State) : Result :=
  if s.busy then
    if s.pc.toNat = imemWords then .next (s.takeTrap .fetchBound)
    else if s.pc.toNat < imemWords then
      match decode (s.imemWord s.pc.toNat) with
      | .ok i => exec i s
      | .error _ => .next (s.takeTrap .illegalInstruction)
    else .fault (.imemIndexAbsent s.pc)
  else .next s

/-- Where the sequencer comes to rest within `n` of its steps: it ended the run, or awaits the RNG. A step that does not
retire an instruction other than HALT leaves pc where it is (R109). -/
def runOut : Nat → State → State
  | 0, s => s
  | n + 1, s =>
    match seqStep s with
    | .next t => if t.pc = s.pc then t else runOut n t
    | .fault _ => s
    | .refused _ => s

/-- The run's final count: RETIRED where the run in hand comes to rest. A run takes at most one step for each word from pc on,
and one more fetch (R127, R811). Nothing the host does during the run changes it (R217); a run whose RNG never answers
rests at that RND (log entry 7). -/
def State.finalCount (s : State) : Nat := (runOut (imemWords + 1 - s.pc.toNat) s).retired.toNat

end Sys2Proof.Machine
end

