-- ==== Sys2Proof/Machine/HostPort.lean ====
section
/-! DEFINITION. The host port: the address map, the CSRs and every host access, the reset input and the IRQ output
(spec/10_state.md R110 to R128, 20_memory.md R201 to R218, 70_reset_and_hazards.md R800 to R805). -/

namespace Sys2Proof.Machine

/-- The eight CSRs, in the order of their offsets (R110). -/
inductive Csr where
  | id | ctrl | status | cause | epc | pc | entry | retired
  deriving DecidableEq, Repr

/-- What a host address reaches (R201). -/
inductive HostTarget where
  | csr (r : Csr)
  | dmem (offset : Nat)   -- byte offset of the aligned word
  | imem (index : Nat)    -- word index
  | unmapped
  deriving DecidableEq, Repr

/-- The CSR at word `n` of the block (R110). -/
def csrAt (n : Nat) : Csr :=
  match n with
  | 0 => .id
  | 1 => .ctrl
  | 2 => .status
  | 3 => .cause
  | 4 => .epc
  | 5 => .pc
  | 6 => .entry
  | _ => .retired

/-- The host address map; bits [1:0] are ignored (R201, R202). -/
def hostTarget (ha : BitVec 16) : HostTarget :=
  let a := ha.toNat / 4 * 4
  if a < 0x20 then .csr (csrAt (a / 4))
  else if 0x4000 ≤ a ∧ a < 0x4400 then .dmem (a - 0x4000)
  else if 0x8000 ≤ a then .imem ((a - 0x8000) / 4)
  else .unmapped

/-- The platform address of a host address, `XFC_BASE` being open (R716). -/
def platformAddress (ha : BitVec 16) : Nat := Config.xfcBase + ha.toNat

/-- The code of a cause in CAUSE (R700). -/
def Cause.code : Cause → BitVec 4
  | .none => 0
  | .illegalInstruction => 1
  | .fetchBound => 2
  | .rngFailure => 3
  | .notASquare => 4
  | .invalidPoint => 5
  | .invalidEncoding => 6

/-- `IRQ = STATUS.DONE and CTRL.IE` (R128). -/
def State.irq (s : State) : Bool := s.done && s.ie

/-- The value of ID (R113). -/
def idValue : Word := 0x58464301

/-- CTRL as it reads: START is 0, IE bit 1, STRICT bit 2 (R110, R114). -/
def State.ctrlWord (s : State) : Word :=
  BitVec.ofNat 32 (2 * s.ie.toNat + 4 * s.strict.toNat)

/-- STATUS: BUSY bit 0, DONE bit 1, FAULT bit 2, HACC bit 3 (R110). -/
def State.statusWord (s : State) : Word :=
  BitVec.ofNat 32 (s.busy.toNat + 2 * s.done.toNat + 4 * s.faulted.toNat + 8 * s.hacc.toNat)

/-- What PC reads: the stop of the last run while idle, a free value in 0..8192 during a run (R125; log entry 7). -/
def State.pcRead (s : State) : Word :=
  if s.busy then BitVec.ofNat 32 (Config.busyPc s.busyReads % (imemWords + 1)) else s.pcCsr.setWidth 32

/-- What RETIRED reads: the exact count while idle, during a run a free value from 0 to the run's final count (R127; log entry 7). -/
def State.retiredRead (s : State) : Word :=
  if s.busy then BitVec.ofNat 32 (Config.busyRetired s.busyReads % (s.finalCount + 1)) else s.retired

/-- The value a CSR reads; bits no rule names read 0 (R110, R111). -/
def State.csrRead (s : State) (r : Csr) : Word :=
  match r with
  | .id => idValue
  | .ctrl => s.ctrlWord
  | .status => s.statusWord
  | .cause => s.cause.code.setWidth 32
  | .epc => s.epc.setWidth 32
  | .pc => s.pcRead
  | .entry => s.entry.setWidth 32
  | .retired => s.retiredRead

/-- The host word at DMEM byte offset `a` (R204). -/
def State.dmemWord (s : State) (a : Nat) : Word := BitVec.ofNat 32 (s.memRead a 4)

/-- The word a host read answers with; IMEM and DMEM read 0 during a run (R201, R203, R217). -/
def State.readValue (s : State) (ha : BitVec 16) : Word :=
  match hostTarget ha with
  | .csr r => s.csrRead r
  | .dmem a => if s.busy then 0 else s.dmemWord a
  | .imem i => if s.busy then 0 else s.imemWord i
  | .unmapped => 0

/-- An access to IMEM or DMEM during a run is a conflict (R217). -/
def State.memoryConflict (s : State) (ha : BitVec 16) : Bool :=
  match hostTarget ha with
  | .dmem _ | .imem _ => s.busy
  | .csr _ | .unmapped => false

/-- Whether a read draws a free value: PC or RETIRED during a run (R125, R127). -/
def State.drawsOnRead (s : State) (ha : BitVec 16) : Bool :=
  s.busy && (hostTarget ha == .csr .pc || hostTarget ha == .csr .retired)

/-- A host read: it changes nothing of the core but HACC on a conflict (R112, R210, R217). -/
def State.hostRead (s : State) (ha : BitVec 16) : State :=
  { s with
    hostData := s.readValue ha
    hacc := s.hacc || s.memoryConflict ha
    busyReads := if s.drawsOnRead ha then s.busyReads + 1 else s.busyReads }

/-- A write of CTRL: IE always; while idle STRICT, then START; while busy START and a change of STRICT are conflicts
(R114 to R117, R805). -/
def State.writeCtrl (s : State) (w : Word) : State :=
  if s.busy then
    { s with ie := w.getLsbD 1, hacc := s.hacc || w.getLsbD 0 || (w.getLsbD 2 != s.strict) }
  else if w.getLsbD 0 then
    State.acceptStart { s with ie := w.getLsbD 1, strict := w.getLsbD 2 }
  else
    { s with ie := w.getLsbD 1, strict := w.getLsbD 2 }

/-- A write of STATUS: DONE and HACC are write-1-to-clear (R119, R121, R122). -/
def State.writeStatus (s : State) (w : Word) : State :=
  { s with done := s.done && !w.getLsbD 1, hacc := s.hacc && !w.getLsbD 3 }

/-- A write of ENTRY: ignored during a run, and a conflict (R126). -/
def State.writeEntry (s : State) (w : Word) : State :=
  if s.busy then { s with hacc := true } else { s with entry := w.setWidth 13 }

/-- A write of a CSR; the read-only ones ignore it (R110, R111). -/
def State.csrWrite (s : State) (r : Csr) (w : Word) : State :=
  match r with
  | .ctrl => s.writeCtrl w
  | .status => s.writeStatus w
  | .entry => s.writeEntry w
  | .id | .cause | .epc | .pc | .retired => s

/-- A host write; to IMEM or DMEM during a run it is dropped and sets HACC, to an unmapped address it is ignored
(R203, R204, R205, R217, R218). -/
def State.hostWrite (s : State) (ha : BitVec 16) (w : Word) : State :=
  match hostTarget ha with
  | .csr r => s.csrWrite r w
  | .dmem a => if s.busy then { s with hacc := true } else s.memWrite a 4 w.toNat
  | .imem i => if s.busy then { s with hacc := true } else s.setImemWord i w
  | .unmapped => s

/-- One host access. -/
def State.hostStep (s : State) (a : HostAccess) : State :=
  match a with
  | .read ha => s.hostRead ha
  | .write ha w => s.hostWrite ha w

/-! ### Reset -/

/-- The store that a reset at this point would cut: its slot and the value it writes (R802). -/
def State.storeInProgress (s : State) : Option (Slot × Nat) :=
  if s.busy && decide (s.pc.toNat < imemWords) then
    match decode (s.imemWord s.pc.toNat) with
    | .ok (.stf k r) => some (k, (s.readF r).val)
    | .ok (.sts k r) => some (k, (s.readS r).toNat)
    | _ => none
  else none

/-- `MemWrite(addr, n, v)` of which only the bytes that `cut` marks, from bit `j` on, took effect. -/
def State.memWriteCut (s : State) (cut : BitVec 32) (addr : Nat) : Nat → Nat → Nat → State
  | 0, _, _ => s
  | n + 1, j, v =>
    State.memWriteCut (if cut.getLsbD j then s.setByte addr (BitVec.ofNat 8 v) else s)
      cut (addr + 1) n (j + 1) (v / 256)

/-- DMEM as a reset leaves it: a store it cuts has written the bytes that `cut` marks (R802; log entry 6). -/
def State.cutStore (s : State) (cut : BitVec 32) : State :=
  match s.storeInProgress with
  | some (k, v) => s.memWriteCut cut (slotOffset k) 32 0 v
  | none => s

/-- A request in flight is abandoned. -/
def State.dropRequest (s : State) : State := if s.rngBusy then s.closeRequest else s

/-- Asserting `rst`: every element of state takes its value of R801, IMEM and DMEM keep their contents
(R800 to R803); the model's own fields go on (log entries 5, 6). -/
def State.assertReset (s : State) (cut : BitVec 32) : State :=
  { State.reset with
    imem := s.imem
    dmem := (s.cutStore cut).dmem
    powerOn := s.powerOn
    rngAnswers := s.dropRequest.rngAnswers
    rngDraws := s.dropRequest.rngDraws
    busyReads := s.busyReads
    hostData := s.hostData
    turns := s.turns }

end Sys2Proof.Machine
end

