-- ==== Sys2Proof/Machine/Sequencer.lean ====
section
/-! DEFINITION. Whose turn it is, and what a turn does (spec/00_scope.md R16). -/

namespace Sys2Proof.Machine

/-- The turn that comes next: the first listed, the sequencer's when none is (log entry 3). -/
def State.turn (s : State) : Turn := s.turns.headD .sequencer

/-- The state with that turn taken off the list. -/
def State.popTurn (s : State) : State := { s with turns := s.turns.tail }

/-- One turn: a step of the sequencer, one host access, or a reset (R16). -/
def takeTurn (s : State) : Result :=
  match s.turn with
  | .sequencer => seqStep s.popTurn
  | .host a => .next (s.popTurn.hostStep a)
  | .reset cut => .next (s.popTurn.assertReset cut)

/-- `s` with `w` as the IMEM word its sequencer fetches next, and the sequencer about to fetch it. During a run whose pc
indexes IMEM the word goes there; otherwise it goes to ENTRY and an accepted START comes with it, as the host would
give it (R804, R805; log entry 2). -/
def State.placeNext (s : State) (w : Word) : State :=
  let s := { s with turns := [] }
  if s.busy && decide (s.pc.toNat < imemWords) then s.setImemWord s.pc.toNat w
  else (s.setImemWord s.entry.toNat w).acceptStart

end Sys2Proof.Machine
end

