-- ==== Sys2Proof/Safety.lean ====
section
/-! DEFINITION. The terms the statements are made in: the invariant of the machine, what an outcome is, and what an
instruction leaves alone. -/

namespace Sys2Proof

open Machine

/-- Every field register, scalar register and flag is zero (R806, R719). -/
def Machine.State.Zeroized (s : State) : Prop :=
  (∀ r, s.readF r = feZero) ∧ (∀ r, s.readS r = 0) ∧ s.c = false ∧ s.sg = false

/-- The invariant of the machine: every reachable state meets it, and it is kept by every turn of every agent. -/
structure Machine.State.Inv (s : State) : Prop where
  /-- DMEM is in canonical form and holds nothing outside its 1024 bytes (R129). -/
  dmem_wf : Memory.wf dmemBytes s.dmem = true
  /-- IMEM is in canonical form and holds nothing outside its 8192 words (R129). -/
  imem_wf : Memory.wf imemWords s.imem = true
  /-- pc never passes 8192 (R109). -/
  pc_le : s.pc.toNat ≤ imemWords
  /-- During a run pc is ENTRY plus the instructions retired (R109, R126, R127). -/
  pc_eq : s.busy = true → s.pc.toNat = s.entry.toNat + s.retired.toNat
  /-- DONE is 0 during a run (R119, R122). -/
  done_idle : s.busy = true → s.done = false
  /-- FAULT is set exactly when CAUSE holds a trap (R120, R123). -/
  fault_iff : s.faulted = true ↔ s.cause ≠ Cause.none
  /-- During a run CAUSE is NONE (R123). -/
  cause_idle : s.busy = true → s.cause = Cause.none
  /-- Without a trap EPC is 0 (R124). -/
  epc_none : s.cause = Cause.none → s.epc = 0
  /-- After a trap the PC CSR reads the same as EPC (R708). -/
  epc_trap : s.cause ≠ Cause.none → s.epc = s.pcCsr
  /-- The PC CSR never passes 8192 (R125). -/
  pcCsr_le : s.pcCsr.toNat ≤ imemWords
  /-- While idle the PC CSR shows where pc stands, and every register and flag is zero (R719, R806). -/
  idle : s.busy = false → s.pcCsr = s.pc ∧ s.Zeroized
  /-- An RNG request is in flight only during a run whose pc is at an RND (R131). -/
  rng_run : s.rngBusy = true → s.busy = true ∧ s.pc.toNat < imemWords ∧
    ∃ sd, decode (s.imemWord s.pc.toNat) = .ok (.rnd sd)

/-! ### What stays the same -/

/-- Everything no instruction that completes writes, HALT apart: IMEM, ENTRY, CTRL, STATUS, CAUSE, EPC, the PC CSR, and the model's own
fields but those of the RNG port. -/
def SameControl (s t : State) : Prop :=
  t.imem = s.imem ∧ t.entry = s.entry ∧ t.ie = s.ie ∧ t.strict = s.strict ∧
  t.busy = s.busy ∧ t.done = s.done ∧ t.faulted = s.faulted ∧ t.hacc = s.hacc ∧
  t.cause = s.cause ∧ t.epc = s.epc ∧ t.pcCsr = s.pcCsr ∧
  t.powerOn = s.powerOn ∧ t.busyReads = s.busyReads ∧ t.hostData = s.hostData ∧ t.turns = s.turns

/-- The RNG port is untouched. -/
def SameRng (s t : State) : Prop :=
  t.rngBusy = s.rngBusy ∧ t.rngAnswers = s.rngAnswers ∧ t.rngDraws = s.rngDraws

/-- Every byte of DMEM reads as before. -/
def SameMemory (s t : State) : Prop := ∀ a, t.dmemByte a = s.dmemByte a

/-- Every byte of DMEM outside the slot reads as before. -/
def SameMemoryOutside (k : Slot) (s t : State) : Prop :=
  ∀ a, (a < slotOffset k ∨ slotOffset k + 32 ≤ a) → t.dmemByte a = s.dmemByte a

/-- Every scalar register is unchanged. -/
def SameScalars (s t : State) : Prop := ∀ r, t.readS r = s.readS r

/-- Every field register is unchanged. -/
def SameFields (s t : State) : Prop := ∀ r, t.readF r = s.readF r

/-- Both flags are unchanged. -/
def SameFlags (s t : State) : Prop := t.c = s.c ∧ t.sg = s.sg

/-- An instruction other than HALT retired: one more counted, pc one further (R109, R127, R650). -/
def Retired (s t : State) : Prop := t.pc = s.pc + 1 ∧ t.retired = s.retired + 1

/-- The instruction wrote field register `d`, and nothing else but pc and RETIRED. -/
def WroteOnlyF (d : FReg) (s t : State) : Prop :=
  Retired s t ∧ (∀ r, r ≠ d → t.readF r = s.readF r) ∧ SameScalars s t ∧ SameFlags s t ∧
  SameMemory s t ∧ SameControl s t ∧ SameRng s t

/-- The instruction wrote scalar register `d`, and nothing else but pc and RETIRED; the RNG port is not spoken of. -/
def WroteOnlyS (d : SReg) (s t : State) : Prop :=
  Retired s t ∧ (∀ r, r ≠ d → t.readS r = s.readS r) ∧ SameFields s t ∧ SameFlags s t ∧
  SameMemory s t ∧ SameControl s t

/-- The instruction wrote the flag C, and nothing else but pc and RETIRED. -/
def WroteOnlyC (s t : State) : Prop :=
  Retired s t ∧ t.sg = s.sg ∧ SameFields s t ∧ SameScalars s t ∧
  SameMemory s t ∧ SameControl s t ∧ SameRng s t

/-- The instruction wrote DMEM slot `k`, and nothing else but pc and RETIRED. -/
def WroteOnlySlot (k : Slot) (s t : State) : Prop :=
  Retired s t ∧ SameFields s t ∧ SameScalars s t ∧ SameFlags s t ∧
  SameMemoryOutside k s t ∧ SameControl s t ∧ SameRng s t

/-- The run ended: the registers and flags are zeroized, DONE is set, BUSY cleared, the PC CSR holds pc (R806). What is
left alone: DMEM, IMEM, ENTRY, CTRL, HACC, pc, and the model's own fields but those of the RNG port. -/
def RunEnded (s t : State) : Prop :=
  t.Zeroized ∧ t.done = true ∧ t.busy = false ∧ t.pcCsr = s.pc ∧ t.pc = s.pc ∧
  SameMemory s t ∧ t.imem = s.imem ∧ t.entry = s.entry ∧ t.ie = s.ie ∧ t.strict = s.strict ∧
  t.hacc = s.hacc ∧ t.powerOn = s.powerOn ∧ t.busyReads = s.busyReads ∧ t.hostData = s.hostData ∧ t.turns = s.turns

/-- A trap with cause `c` was taken: CAUSE, EPC, FAULT are recorded, the instruction is not counted, the run ended (R707, R708). -/
def Trapped (c : Cause) (s t : State) : Prop :=
  RunEnded s t ∧ t.cause = c ∧ t.epc = s.pc ∧ t.faulted = true ∧ t.retired = s.retired

/-! ### Encodings -/

/-- A row of the opcode table: exactly the words that agree with `m` on the bits of `mask` decode to the row's
instruction, with the operands `i` reads from the word (R302, R305, R306). -/
def RowDecodes (mask m : Word) (i : Word → Instr) : Prop :=
  ∀ w : Word, w &&& mask = m ↔ decode w = .ok (i w)

/-- The mask and match of every row of spec/opcode_table.json, in its order (R302, R305). -/
def opcodeRows : List (Word × Word) :=
  [(0xFFFFFFFF, 0x04000000), (0xFFFFFFFF, 0x08000000), (0xFC003FFF, 0x10000000), (0xFC003FFF, 0x14000000),
   (0xFC003FFF, 0x18000000), (0xFC03FFFF, 0x1C000000), (0xFC03FFFF, 0x20000000), (0xFC03FFFF, 0x24000000),
   (0xFC3FFFF8, 0x28000000), (0xFC03FFFF, 0x30000000), (0xFC03FFFF, 0x34000000), (0xFC003FFF, 0x40000000),
   (0xFFC03FFF, 0x44000000), (0xFFC03FFF, 0x48000000), (0xFFC3FF00, 0x4C000000), (0xFFF3FF00, 0x50000000),
   (0xFFFFFFFC, 0x54000000), (0xFC03FFFF, 0x60000000), (0xFC03FFFF, 0x64000000), (0xFF33FFFF, 0x70000000),
   (0xFF3FFFFF, 0x74000000), (0xFC3FFFE0, 0x80000000), (0xFC3FFFE0, 0x84000000), (0xFF3FFFE0, 0x88000000),
   (0xFC3FFFE0, 0x90000000), (0xFF3FFFE0, 0x94000000)]

/-- The word matches some row (R306). -/
def matchesSomeRow (w : Word) : Bool := opcodeRows.any fun r => w &&& r.1 == r.2

/-- The OP values that are assigned to no row (R307 (a), (b)). -/
def unassignedOps : List Nat :=
  [0x00, 0x03, 0x0B, 0x0E, 0x0F, 0x16, 0x17, 0x1A, 0x1B, 0x1E, 0x1F, 0x23] ++ (List.range 26).map (0x26 + ·)

/-- Field X of a word as a field register (R301, R303). -/
def wordFX (w : Word) : FReg := ⟨w.toNat / 2 ^ 22 % 16, Nat.mod_lt _ (by decide)⟩

/-- Field Y of a word as a field register. -/
def wordFY (w : Word) : FReg := ⟨w.toNat / 2 ^ 18 % 16, Nat.mod_lt _ (by decide)⟩

/-- Field Z of a word as a field register. -/
def wordFZ (w : Word) : FReg := ⟨w.toNat / 2 ^ 14 % 16, Nat.mod_lt _ (by decide)⟩

/-- `X[1:0]` of a word as a scalar register (R303). -/
def wordSX (w : Word) : SReg := ⟨w.toNat / 2 ^ 22 % 4, Nat.mod_lt _ (by decide)⟩

/-- `Y[1:0]` of a word as a scalar register. -/
def wordSY (w : Word) : SReg := ⟨w.toNat / 2 ^ 18 % 4, Nat.mod_lt _ (by decide)⟩

/-- `IMM[2:0]` of a word (R304). -/
def wordK (w : Word) : RomIx := ⟨w.toNat % 8, Nat.mod_lt _ (by decide)⟩

/-- `IMM[4:0]` of a word (R304). -/
def wordSlot (w : Word) : Slot := ⟨w.toNat % 32, Nat.mod_lt _ (by decide)⟩

/-- `IMM[7:0]` of a word (R304). -/
def wordN (w : Word) : BitIx := ⟨w.toNat % 256, Nat.mod_lt _ (by decide)⟩

/-- `IMM[1:0]` of a word as a mode of CFLG (R304, R456). -/
def wordMode (w : Word) : CflgMode :=
  if w.toNat % 4 = 0 then .zero else if w.toNat % 4 = 1 then .one else if w.toNat % 4 = 2 then .sg else .not

/-! ### Access tables and causes -/

/-- The field registers an instruction reads (R103). -/
def readsF : Instr → List FReg
  | .add _ a b | .sub _ a b | .mul _ a b | .csel _ a b => [a, b]
  | .sqr _ a | .neg _ a | .mov _ a | .inv _ a | .sqrt _ a | .m2e _ a | .e2m _ a => [a]
  | .cswap a b | .ceq a b => [a, b]
  | .cbitf a _ => [a]
  | .stf _ r => [r]
  | .halt | .nop | .ldc .. | .cbits .. | .cflg .. | .clamp .. | .rnd .. | .ldu .. | .lde .. | .lds .. | .sts .. => []

/-- The field registers an instruction writes; CSWAP's when C = 1 (R103). -/
def writesF (c : Bool) : Instr → List FReg
  | .add d _ _ | .sub d _ _ | .mul d _ _ | .csel d _ _ => [d]
  | .sqr d _ | .neg d _ | .mov d _ | .inv d _ | .sqrt d _ | .m2e d _ | .e2m d _ => [d]
  | .ldc d _ | .ldu d _ | .lde d _ => [d]
  | .cswap a b => if c then [a, b] else []
  | .halt | .nop | .ceq .. | .cbitf .. | .cbits .. | .cflg .. | .clamp .. | .rnd .. | .lds .. | .stf .. | .sts .. => []

/-- The scalar registers an instruction reads (R105). -/
def readsS : Instr → List SReg
  | .clamp _ a => [a]
  | .sts _ r => [r]
  | .cbits a _ => [a]
  | .halt | .nop | .add .. | .sub .. | .mul .. | .sqr .. | .neg .. | .mov .. | .ldc .. | .inv .. | .sqrt .. | .csel ..
  | .cswap .. | .ceq .. | .cbitf .. | .cflg .. | .m2e .. | .e2m .. | .rnd .. | .ldu .. | .lde .. | .lds .. | .stf .. => []

/-- The scalar registers an instruction writes (R105). -/
def writesS : Instr → List SReg
  | .clamp d _ => [d]
  | .rnd d => [d]
  | .lds d _ => [d]
  | .halt | .nop | .add .. | .sub .. | .mul .. | .sqr .. | .neg .. | .mov .. | .ldc .. | .inv .. | .sqrt .. | .csel ..
  | .cswap .. | .ceq .. | .cbitf .. | .cbits .. | .cflg .. | .m2e .. | .e2m .. | .ldu .. | .lde .. | .stf .. | .sts .. => []

/-- The instruction reads C: CSEL, CSWAP and CFLG mode `not` (R107). -/
def readsC : Instr → Bool
  | .csel .. | .cswap .. => true
  | .cflg m => m == .not
  | .halt | .nop | .add .. | .sub .. | .mul .. | .sqr .. | .neg .. | .mov .. | .ldc .. | .inv .. | .sqrt .. | .ceq ..
  | .cbitf .. | .cbits .. | .m2e .. | .e2m .. | .clamp .. | .rnd .. | .ldu .. | .lde .. | .lds .. | .stf .. | .sts .. => false

/-- The instruction writes C: CEQ, CBITF, CBITS and CFLG (R107). -/
def writesC : Instr → Bool
  | .ceq .. | .cbitf .. | .cbits .. | .cflg .. => true
  | .halt | .nop | .add .. | .sub .. | .mul .. | .sqr .. | .neg .. | .mov .. | .ldc .. | .inv .. | .sqrt .. | .csel ..
  | .cswap .. | .m2e .. | .e2m .. | .clamp .. | .rnd .. | .ldu .. | .lde .. | .lds .. | .stf .. | .sts .. => false

/-- The instruction reads SG: CFLG mode `sg` (R108). -/
def readsSG (i : Instr) : Bool := i == .cflg .sg

/-- The instruction writes SG: LDE (R108). -/
def writesSG : Instr → Bool
  | .lde .. => true
  | .halt | .nop | .add .. | .sub .. | .mul .. | .sqr .. | .neg .. | .mov .. | .ldc .. | .inv .. | .sqrt .. | .csel ..
  | .cswap .. | .ceq .. | .cbitf .. | .cbits .. | .cflg .. | .m2e .. | .e2m .. | .clamp .. | .rnd .. | .ldu .. | .lds ..
  | .stf .. | .sts .. => false

/-- The slot an instruction stores to: STF and STS (R129, R600). -/
def writesSlot : Instr → Option Slot
  | .stf k _ | .sts k _ => some k
  | .halt | .nop | .add .. | .sub .. | .mul .. | .sqr .. | .neg .. | .mov .. | .ldc .. | .inv .. | .sqrt .. | .csel ..
  | .cswap .. | .ceq .. | .cbitf .. | .cbits .. | .cflg .. | .m2e .. | .e2m .. | .clamp .. | .rnd .. | .ldu .. | .lde ..
  | .lds .. => none

/-- The cause an instruction can raise itself (R709). -/
def ownCause : Instr → Option Cause
  | .rnd .. => some .rngFailure
  | .sqrt .. => some .notASquare
  | .m2e .. | .e2m .. => some .invalidPoint
  | .lde .. => some .invalidEncoding
  | .halt | .nop | .add .. | .sub .. | .mul .. | .sqr .. | .neg .. | .mov .. | .ldc .. | .inv .. | .csel .. | .cswap ..
  | .ceq .. | .cbitf .. | .cbits .. | .cflg .. | .clamp .. | .ldu .. | .lds .. | .stf .. | .sts .. => none

/-- HALT completed: it is counted and the run ended without a trap (R651). -/
def Halted (s t : State) : Prop :=
  RunEnded s t ∧ t.retired = s.retired + 1 ∧ t.faulted = false ∧ t.cause = s.cause ∧ t.epc = s.epc

/-! ### Runs -/

/-- Two states that a run without RND cannot tell apart: they agree on registers, flags, pc, STRICT, the run's CSRs and
every byte of DMEM; the PC CSR counts while idle alone, as a run does not read it (R654, R125). -/
def RunAgree (s t : State) : Prop :=
  SameFields s t ∧ SameScalars s t ∧ SameFlags s t ∧ SameMemory s t ∧ t.pc = s.pc ∧ t.retired = s.retired ∧
  t.strict = s.strict ∧ t.busy = s.busy ∧ t.done = s.done ∧ t.faulted = s.faulted ∧ t.cause = s.cause ∧
  t.epc = s.epc ∧ (s.busy = false → t.pcCsr = s.pcCsr)

/-- The core after `n` steps. -/
def runSteps (n : Nat) (s : State) : Result := Host.Core.run core n s

/-- No word that the run in hand fetches within `n` steps is an RND. -/
def FetchesNoRnd (n : Nat) (s : State) : Prop :=
  ∀ m u sd, m < n → runSteps m s = .next u → u.busy = true → u.pc.toNat < imemWords →
    decode (u.imemWord u.pc.toNat) ≠ .ok (.rnd sd)

/-- The run in hand ends with the `n`-th step, in `t`. -/
def RunEndsAt (n : Nat) (s t : State) : Prop :=
  runSteps n s = .next t ∧ t.busy = false ∧ ∀ m u, m < n → runSteps m s = .next u → u.busy = true

end Sys2Proof
end

