-- ==== Sys2Proof/Certificates/Slice0/Obligations.lean ====
section
/-! DEFINITION. The statements for the provers, from the numbered rules of spec/. `exec i s` is the instruction's rule at
state `s`; `step` takes the turn that comes next. Every statement about an instruction holds in every state. -/

open Sys2Proof Sys2Proof.Machine

/-! ### Encoding and decoding -/

/-- R309: a word that decodes is the encoding of what it decodes to. -/
def Obligations.DecodedWordsReencode : Prop :=
  ∀ (w : Word) (i : Instr), decode w = .ok i → encode i = w

/-- From R301 to R305: every instruction, with every operand, is decoded from its encoding, and the encoding is well formed. -/
def Obligations.EncodedInstructionsDecode : Prop :=
  ∀ i : Instr, i.wellFormed = true ∧ decode (encode i) = .ok i

/-- R306: at most one row of the opcode table matches a word, decoding succeeds exactly when one does, and the mask of
every row covers the opcode. -/
def Obligations.AtMostOneRowMatches : Prop :=
  (∀ w : Word, (opcodeRows.filter fun r => w &&& r.1 == r.2).length ≤ 1) ∧
  (∀ w : Word, (∃ i, decode w = .ok i) ↔ matchesSomeRow w = true) ∧
  (opcodeRows.map fun r => r.2.toNat / 2 ^ 26).Nodup ∧
  (∀ r ∈ opcodeRows, r.1.toNat / 2 ^ 26 = 63)

/-- R307 and R701: executing a word that matches no row traps ILLEGAL_INSTRUCTION without any other effect; such are the
words of every unassigned opcode (0x00 among them) and those with an assigned opcode and a must-be-zero bit set. -/
def Obligations.UnmatchedWordsTrapIllegal : Prop :=
  (∀ s : State, s.turn = .sequencer → s.busy = true → s.pc.toNat < imemWords →
    matchesSomeRow (s.imemWord s.pc.toNat) = false →
    ∃ t, step s = .next t ∧ Trapped .illegalInstruction s.popTurn t ∧ SameRng s t ∧ t.cause.code = 1) ∧
  (∀ w : Word, w.toNat / 2 ^ 26 ∈ unassignedOps → matchesSomeRow w = false) ∧
  (∀ r ∈ opcodeRows, ∀ w : Word, w.toNat / 2 ^ 26 = r.2.toNat / 2 ^ 26 → w &&& r.1 ≠ r.2 →
    matchesSomeRow w = false)

/-- R312: the worked encodings, written out from the spec, decode to what they stand for and are its encoding. -/
def Obligations.WorkedEncodingsDecode : Prop :=
  ∀ p ∈ [((0x10C48000 : Word), Instr.add 3 1 2), (0x500000FE, .cbits 0 254), (0x91800002, .stf 2 6),
      (0x2BC00004, .ldc 15 4), (0x54000002, .cflg .sg), (0x04000000, .halt)],
    decode p.1 = .ok p.2 ∧ encode p.2 = p.1

/-! ### The sequencer -/

/-- From R650: at the sequencer's turn during a run, a fetched word that decodes to `i` is executed as `i`, once its turn
is taken off the list of turns; with no turns listed the step is exec itself. -/
def Obligations.StepRunsDecodedInstruction : Prop :=
  ∀ (s : State) (i : Instr), s.turn = .sequencer → s.busy = true → s.pc.toNat < imemWords →
    decode (s.imemWord s.pc.toNat) = .ok i →
    step s = exec i s.popTurn ∧ (s.turns = [] → step s = exec i s)

/-- From R650, R708, R709, R719 and R811: at the sequencer's turn during a run, FETCH_BOUND comes before the fetch, ILLEGAL_INSTRUCTION at decode, and
then the instruction retires, ends the run, or raises the one cause that is its own; a trap skips the rest. The one further
case, an RND whose answer never comes, stays where it is (the model's form of R811, log entry 5). While idle the turn
changes nothing. -/
def Obligations.SequencerCycle : Prop :=
  ∀ s : State, s.turn = .sequencer →
    (s.busy = false → step s = .next s.popTurn) ∧
    (s.busy = true → s.pc.toNat = imemWords → ∃ t, step s = .next t ∧ Trapped .fetchBound s.popTurn t ∧ SameRng s t) ∧
    (s.busy = true → s.pc.toNat < imemWords → (∀ i, decode (s.imemWord s.pc.toNat) ≠ .ok i) →
      ∃ t, step s = .next t ∧ Trapped .illegalInstruction s.popTurn t ∧ SameRng s t) ∧
    (∀ i, s.busy = true → s.pc.toNat < imemWords → decode (s.imemWord s.pc.toNat) = .ok i →
      ∃ t, step s = .next t ∧
        ((i ≠ .halt ∧ Retired s.popTurn t ∧ SameControl s.popTurn t) ∨
         (i = .halt ∧ Halted s.popTurn t) ∨
         (∃ c, ownCause i = some c ∧ Trapped c s.popTurn t) ∨
         (∃ sd, i = .rnd sd ∧ s.rngAnswer = .silent ∧ t = s.popTurn.awaitRng)))

/-- R702: the sequencer's turn at pc = 8192 traps FETCH_BOUND with EPC 8192, and an instruction at 8191 that retires
and is not HALT leads there. -/
def Obligations.FetchBeyondImemTraps : Prop :=
  (∀ s : State, s.turn = .sequencer → s.busy = true → s.pc.toNat = 8192 →
    ∃ t, step s = .next t ∧ Trapped .fetchBound s.popTurn t ∧ SameRng s t ∧ t.cause.code = 2 ∧ t.epc.toNat = 8192) ∧
  (∀ (i : Instr) (s t : State), s.pc.toNat = 8191 → exec i s = .next t → t.retired = s.retired + 1 → i ≠ .halt →
    t.pc.toNat = 8192)

/-- From R109, R119, R120, R123, R124, R131, R708, R719 and R806: every turn of every agent keeps the invariant. -/
def Obligations.EveryStepKeepsInvariant : Prop :=
  ∀ s t : State, s.Inv → step s = .next t → t.Inv

/-- From R801: the state after reset meets the invariant. -/
def Obligations.ResetMeetsInvariant : Prop := State.reset.Inv

/-- From R109, R650, R709 and R811, in the model's form: no state that meets the invariant stops, every turn answers a next state.
That a turn of the sequencer at an RND that gets no answer is a next state too is the model's choice (log entry 5; R811 has
the run stuck there), as is the next state of an idle turn (log entry 3). -/
def Obligations.InvariantStatesNeverStop : Prop := ∀ s : State, s.Inv → ∃ t, step s = .next t

/-- From R811: a run takes at most 8192 - ENTRY instructions and one fetch more: within that many turns of the sequencer it has
ended, counting no more than 8192 - ENTRY, unless it stands at an RND whose answer never comes, and there it stays, each turn a
step that changes nothing (the model's form of that, log entry 5). -/
def Obligations.EveryRunEndsOrAwaitsRng : Prop :=
  (∀ s : State, s.Inv → s.busy = true → s.turns = [] →
    ∃ n t, n ≤ imemWords + 1 - s.pc.toNat ∧ runSteps n s = .next t ∧
      t.retired.toNat ≤ imemWords - s.entry.toNat ∧
      (t.busy = false ∨
        (∃ sd, decode (t.imemWord t.pc.toNat) = .ok (.rnd sd)) ∧ t.pc.toNat < imemWords ∧ t.rngAnswer = .silent)) ∧
  (∀ (s : State) (sd : SReg) (n : Nat), s.busy = true → s.turns = [] → s.pc.toNat < imemWords →
    decode (s.imemWord s.pc.toNat) = .ok (.rnd sd) → s.rngAnswer = .silent →
    ∃ t, runSteps n s = .next t ∧ t.pc = s.pc ∧ t.busy = true ∧ t.retired = s.retired ∧
      SameFields s t ∧ SameScalars s t ∧ SameFlags s t ∧ SameMemory s t)

/-- R654: what an instruction but RND writes, and whether it completes, is a function of the instruction, the registers, the flags,
DMEM and STRICT alone. So two runs whose IMEM, DMEM, ENTRY and STRICT are alike at START stay alike as long as they fetch no RND,
whatever the rest of the state is; and a run that ends having fetched none ends alike whatever host accesses come between. -/
def Obligations.RunIsFunctionOfItsInputs : Prop :=
  (∀ (i : Instr) (s s' : State), (∀ sd, i ≠ .rnd sd) →
    SameFields s s' → SameScalars s s' → SameFlags s s' → SameMemory s s' → s'.strict = s.strict →
    ∃ t t', exec i s = .next t ∧ exec i s' = .next t' ∧
      SameFields t t' ∧ SameScalars t t' ∧ SameFlags t t' ∧ SameMemory t t' ∧ (Retired s t ↔ Retired s' t')) ∧
  (∀ s s' : State, SameMemory s s' → s'.entry = s.entry → s'.strict = s.strict → RunAgree s.acceptStart s'.acceptStart) ∧
  (∀ (s s' : State) (n : Nat), s.pc.toNat ≤ imemWords → s.turns = [] → s'.turns = [] → RunAgree s s' →
    (∀ j, s'.imemWord j = s.imemWord j) → FetchesNoRnd n s →
    ∃ t t', runSteps n s = .next t ∧ runSteps n s' = .next t' ∧ RunAgree t t') ∧
  (∀ (s s' t : State) (n : Nat), s.busy = true → RunAgree s s' → (∀ j, s'.imemWord j = s.imemWord j) →
    (∀ cut, .reset cut ∉ s.turns) → (∀ cut, .reset cut ∉ s'.turns) → RunEndsAt n s t → FetchesNoRnd n s →
    ∃ n' t', RunEndsAt n' s' t' ∧ RunAgree t t')

/-- R103, R105: an instruction that completes and does not end the run writes no register outside the access tables, and what it
writes, and whether it completes, depends on no register outside them. With R107 and R108 the same of the flags. -/
def Obligations.RegisterAccessTables : Prop :=
  (∀ (i : Instr) (s t : State), exec i s = .next t → Retired s t →
    (∀ r, r ∉ writesF s.c i → t.readF r = s.readF r) ∧ (∀ r, r ∉ writesS i → t.readS r = s.readS r) ∧
    (writesC i = false → t.c = s.c) ∧ (writesSG i = false → t.sg = s.sg)) ∧
  (∀ (i : Instr) (s s' t t' : State), exec i s = .next t → exec i s' = .next t' → Retired s t →
    (∀ r, r ∈ readsF i → s'.readF r = s.readF r) → (∀ r, r ∈ readsS i → s'.readS r = s.readS r) →
    (readsC i = true → s'.c = s.c) → (readsSG i = true → s'.sg = s.sg) → s'.strict = s.strict →
    SameMemory s s' → s'.rngAnswer = s.rngAnswer →
    Retired s' t' ∧ (∀ r, r ∈ writesF s.c i → t'.readF r = t.readF r) ∧
    (∀ r, r ∈ writesS i → t'.readS r = t.readS r) ∧
    (writesC i = true → t'.c = t.c) ∧ (writesSG i = true → t'.sg = t.sg) ∧
    (∀ k, writesSlot i = some k → ∀ a, slotOffset k ≤ a → a < slotOffset k + 32 → t'.dmemByte a = t.dmemByte a))

/-- From R200, R213 and R714: no instruction writes IMEM, ENTRY, CTRL or HACC, or answers a host access, and only STF and STS
write DMEM, in their own slot. -/
def Obligations.SequencerStaysInItsSpaces : Prop :=
  ∀ (i : Instr) (s t : State), exec i s = .next t →
    t.imem = s.imem ∧ t.entry = s.entry ∧ t.ie = s.ie ∧ t.strict = s.strict ∧ t.hacc = s.hacc ∧
    t.hostData = s.hostData ∧ t.busyReads = s.busyReads ∧ t.turns = s.turns ∧
    (∀ a, (∀ k, writesSlot i = some k → a < slotOffset k ∨ slotOffset k + 32 ≤ a) → t.dmemByte a = s.dmemByte a)

/-- R213: during a run no turn of the sequencer or the host changes an IMEM word, and no instruction ever does; so the words
a run fetches are those of its START. -/
def Obligations.ImemIsConstantDuringRun : Prop :=
  (∀ (i : Instr) (s t : State), exec i s = .next t → ∀ j, t.imemWord j = s.imemWord j) ∧
  (∀ (s t : State) (n : Nat), (∀ m u, m < n → runSteps m s = .next u → u.busy = true) → runSteps n s = .next t →
    ∀ j, t.imemWord j = s.imemWord j)

/-- From R116 and R126: STRICT and ENTRY keep their values through every turn of a run but a reset. -/
def Obligations.StrictAndEntryAreConstantDuringRun : Prop :=
  ∀ s t : State, s.busy = true → (∀ cut, s.turn ≠ .reset cut) → step s = .next t →
    t.strict = s.strict ∧ t.entry = s.entry

/-- From R130, R707 and R806: when a run ends, by HALT or by a trap, every register and flag is zeroized, and nothing is lost
of DMEM. -/
def Obligations.RunEndZeroizesRegisters : Prop :=
  ∀ s t : State, s.busy = true → s.turn = .sequencer → step s = .next t → t.busy = false →
    t.Zeroized ∧ t.done = true ∧ t.pcCsr = s.pc ∧ SameMemory s t ∧
    (t.faulted = false → t.retired = s.retired + 1) ∧ (t.faulted = true → t.retired = s.retired ∧ t.epc = s.pc)

/-- From R711: what a trap of an instruction records depends on the instruction and on pc alone. -/
def Obligations.TrapRecordsRevealNoData : Prop :=
  ∀ (i : Instr) (s s' t t' : State), s'.pc = s.pc → s.busy = true → s'.busy = true →
    exec i s = .next t → exec i s' = .next t' → i ≠ .halt → t.busy = false → t'.busy = false →
    t'.cause = t.cause ∧ t'.epc = t.epc ∧ t'.faulted = t.faulted ∧ t'.pcCsr = t.pcCsr ∧
    (∀ r, t'.readF r = t.readF r) ∧ (∀ r, t'.readS r = t.readS r) ∧ t'.c = t.c ∧ t'.sg = t.sg

/-! ### Reset -/

/-- From R801: the state after reset, as the table gives it, read as instructions and the host read it. -/
def Obligations.ResetValues : Prop :=
  let s := State.reset
  (∀ r, (s.readF r).val = 0) ∧ (∀ r, s.readS r = 0) ∧ s.c = false ∧ s.sg = false ∧ s.pc = 0 ∧
  s.csrRead .id = 0x58464301 ∧ s.csrRead .ctrl = 0 ∧ s.csrRead .status = 0 ∧ s.csrRead .cause = 0 ∧
  s.csrRead .epc = 0 ∧ s.csrRead .pc = 0 ∧ s.csrRead .entry = 0 ∧ s.csrRead .retired = 0 ∧
  s.irq = false ∧ s.rngBusy = false ∧ s.busy = false

/-- From R800, R802 and R803: asserting reset in any state gives every register its reset value and keeps IMEM and DMEM, but
for the bytes of a slot whose STF or STS it cuts, each of which is the old byte or the byte being stored. -/
def Obligations.ResetKeepsMemories : Prop :=
  ∀ (s : State) (cut : BitVec 32) (ts : List Turn), s.turns = .reset cut :: ts →
    ∃ t, step s = .next t ∧
      (∀ r, (t.readF r).val = 0) ∧ (∀ r, t.readS r = 0) ∧ t.c = false ∧ t.sg = false ∧ t.pc = 0 ∧
      t.ie = false ∧ t.strict = false ∧ t.busy = false ∧ t.done = false ∧ t.faulted = false ∧ t.hacc = false ∧
      t.cause = .none ∧ t.epc = 0 ∧ t.pcCsr = 0 ∧ t.entry = 0 ∧ t.retired = 0 ∧ t.rngBusy = false ∧
      (∀ j, t.imemWord j = s.imemWord j) ∧
      (s.storeInProgress = none → SameMemory s t) ∧
      (∀ k v, s.storeInProgress = some (k, v) → SameMemoryOutside k s t ∧
        ∀ j, j < 32 → t.dmemByte (slotOffset k + j) =
          if cut.getLsbD j then BitVec.ofNat 8 (v / 256 ^ j) else s.dmemByte (slotOffset k + j)) ∧
      (∀ k v, s.storeInProgress = some (k, v) →
        (∃ r, decode (s.imemWord s.pc.toNat) = .ok (.stf k r) ∧ v = (s.readF r).val) ∨
        (∃ r, decode (s.imemWord s.pc.toNat) = .ok (.sts k r) ∧ v = (s.readS r).toNat))

/-! ### The host port -/

/-- R805: an accepted START. -/
def Obligations.AcceptedStart : Prop :=
  ∀ (s : State) (ha : BitVec 16) (w : Word) (ts : List Turn), s.turns = .host (.write ha w) :: ts →
    ha.toNat / 4 = 1 → s.busy = false → w.getLsbD 0 = true →
    ∃ t, step s = .next t ∧ t.ie = w.getLsbD 1 ∧ t.strict = w.getLsbD 2 ∧
      t.done = false ∧ t.faulted = false ∧ t.cause = .none ∧ t.epc = 0 ∧ t.retired = 0 ∧ t.Zeroized ∧
      t.pc.toNat = s.entry.toNat ∧ t.busy = true ∧ t.hacc = s.hacc ∧ t.entry = s.entry ∧ t.pcCsr = s.pcCsr ∧
      t.imem = s.imem ∧ t.dmem = s.dmem ∧ t.turns = ts

/-- R114, R115 and R117: the other writes of CTRL. While idle without START they write IE and STRICT; during a run they write IE
alone, and START or a change of STRICT (R116) is a conflict. START reads 0. -/
def Obligations.CtrlWrites : Prop :=
  (∀ (s : State) (ha : BitVec 16) (w : Word) (ts : List Turn), s.turns = .host (.write ha w) :: ts →
    ha.toNat / 4 = 1 →
    (s.busy = false → w.getLsbD 0 = false →
      step s = .next { s with turns := ts, ie := w.getLsbD 1, strict := w.getLsbD 2 }) ∧
    (s.busy = false → w.getLsbD 0 = true → ∃ t, step s = .next t ∧ t.busy = true ∧
      t.ie = w.getLsbD 1 ∧ t.strict = w.getLsbD 2) ∧
    (s.busy = true → step s = .next { s with
      turns := ts, ie := w.getLsbD 1
      hacc := s.hacc || w.getLsbD 0 || (w.getLsbD 2 != s.strict) })) ∧
  (∀ (s : State) (ha : BitVec 16), ha.toNat / 4 = 1 → (s.readValue ha).getLsbD 0 = false ∧
    (s.readValue ha).getLsbD 1 = s.ie ∧ (s.readValue ha).getLsbD 2 = s.strict) ∧
  State.reset.ie = false ∧ State.reset.strict = false

/-- From R118 to R122: STATUS reads BUSY, DONE, FAULT and HACC in bits 0 to 3, and a write clears DONE and HACC where it has a 1,
and nothing else, idle or not. -/
def Obligations.StatusReadsAndWrites : Prop :=
  (∀ (s : State) (ha : BitVec 16), ha.toNat / 4 = 2 →
    (s.readValue ha).getLsbD 0 = s.busy ∧ (s.readValue ha).getLsbD 1 = s.done ∧
    (s.readValue ha).getLsbD 2 = s.faulted ∧ (s.readValue ha).getLsbD 3 = s.hacc) ∧
  (∀ (s : State) (ha : BitVec 16) (w : Word) (ts : List Turn), s.turns = .host (.write ha w) :: ts →
    ha.toNat / 4 = 2 →
    step s = .next { s with turns := ts, done := s.done && !w.getLsbD 1, hacc := s.hacc && !w.getLsbD 3 })

/-- R126: ENTRY holds bits 12:0 of what the host writes while idle, always below 8192, and is where the next run starts; a write
during a run is ignored and sets HACC. -/
def Obligations.EntryWrites : Prop :=
  (∀ (s : State) (ha : BitVec 16) (w : Word) (ts : List Turn), s.turns = .host (.write ha w) :: ts →
    ha.toNat / 4 = 6 →
    (s.busy = false → ∃ t, step s = .next t ∧ t.entry.toNat = w.toNat % 8192 ∧
      t = { s with turns := ts, entry := t.entry }) ∧
    (s.busy = true → step s = .next { s with turns := ts, hacc := true })) ∧
  (∀ (s : State) (ha : BitVec 16), ha.toNat / 4 = 6 → (s.readValue ha).toNat = s.entry.toNat) ∧
  (∀ s : State, s.entry.toNat < 8192 ∧ s.acceptStart.pc.toNat = s.entry.toNat) ∧
  State.reset.entry = 0

/-- From R110, R112, R113, R123, R124 and R700: writes to the read-only CSRs change nothing; a host read of a CSR answers its value
and has no other effect; ID always reads 0x58464301, CAUSE the code of the cause as the table has it, EPC its index. -/
def Obligations.ReadOnlyCsrsIgnoreWrites : Prop :=
  (∀ (s : State) (ha : BitVec 16) (w : Word) (ts : List Turn), s.turns = .host (.write ha w) :: ts →
    ha.toNat / 4 ∈ [0, 3, 4, 5, 7] → step s = .next { s with turns := ts }) ∧
  (∀ (s : State) (ha : BitVec 16), ha.toNat / 4 = 0 → s.readValue ha = 0x58464301) ∧
  (∀ (s : State) (ha : BitVec 16) (ts : List Turn), s.turns = .host (.read ha) :: ts → ha.toNat / 4 < 8 →
    ∃ t, step s = .next t ∧ t.hostData = s.readValue ha ∧
      { t with hostData := s.hostData, busyReads := s.busyReads, turns := s.turns } = s) ∧
  (∀ (s : State) (ha : BitVec 16), ha.toNat / 4 = 3 → (s.readValue ha).toNat = s.cause.code.toNat ∧
    (s.cause = .none → s.cause.code.toNat = 0) ∧ (s.cause = .illegalInstruction → s.cause.code.toNat = 1) ∧
    (s.cause = .fetchBound → s.cause.code.toNat = 2) ∧ (s.cause = .rngFailure → s.cause.code.toNat = 3) ∧
    (s.cause = .notASquare → s.cause.code.toNat = 4) ∧ (s.cause = .invalidPoint → s.cause.code.toNat = 5) ∧
    (s.cause = .invalidEncoding → s.cause.code.toNat = 6)) ∧
  (∀ (s : State) (ha : BitVec 16), ha.toNat / 4 = 4 → (s.readValue ha).toNat = s.epc.toNat)

/-- R111: every bit of a CSR that R110 does not name reads 0, and a write's reserved bits have no influence. -/
def Obligations.ReservedCsrBits : Prop :=
  (∀ (s : State) (n : Nat), ((s.csrRead .ctrl).getLsbD n = true → n = 1 ∨ n = 2) ∧ ((s.csrRead .status).getLsbD n = true → n ≤ 3) ∧
    ((s.csrRead .cause).getLsbD n = true → n ≤ 3) ∧ ((s.csrRead .epc).getLsbD n = true → n ≤ 13) ∧
    ((s.csrRead .pc).getLsbD n = true → n ≤ 13) ∧ ((s.csrRead .entry).getLsbD n = true → n ≤ 12)) ∧
  (∀ (s : State) (w w' : Word),
    ((∀ n, n ≤ 2 → w.getLsbD n = w'.getLsbD n) → s.csrWrite .ctrl w = s.csrWrite .ctrl w') ∧
    ((∀ n, n = 1 ∨ n = 3 → w.getLsbD n = w'.getLsbD n) → s.csrWrite .status w = s.csrWrite .status w') ∧
    ((∀ n, n ≤ 12 → w.getLsbD n = w'.getLsbD n) → s.csrWrite .entry w = s.csrWrite .entry w'))

/-- From R112, R125 and R127: while idle PC and RETIRED read where and after how many instructions the last run stopped; during a
run they read free values, PC at most 8192 and RETIRED at most the run's final count, and the read changes nothing else of the
core. The final count is kept by every turn of the run but a reset, and is RETIRED when the run ends (of a run that the RNG
never lets end it is the count at that RND, log entry 7). -/
def Obligations.PcAndRetiredReads : Prop :=
  (∀ s : State, s.busy = false → (s.csrRead .pc).toNat = s.pcCsr.toNat ∧ s.csrRead .retired = s.retired) ∧
  (∀ s : State, (s.busy = true → (s.csrRead .pc).toNat ≤ 8192 ∧ (s.csrRead .retired).toNat ≤ s.finalCount)) ∧
  (∀ s t : State, s.Inv → s.busy = true → (∀ cut, s.turn ≠ .reset cut) → step s = .next t →
    (t.busy = true → t.finalCount = s.finalCount) ∧ (t.busy = false → t.retired.toNat = s.finalCount)) ∧
  (∀ (s : State) (ha : BitVec 16) (ts : List Turn), s.turns = .host (.read ha) :: ts →
    ha.toNat / 4 = 5 ∨ ha.toNat / 4 = 7 → ∃ t, step s = .next t ∧
      t.hostData = (if ha.toNat / 4 = 5 then s.csrRead .pc else s.csrRead .retired) ∧
      { t with hostData := s.hostData, busyReads := s.busyReads, turns := s.turns } = s)

/-- R203: an unmapped address reads 0 and ignores writes, and sets no HACC. -/
def Obligations.UnmappedAddresses : Prop :=
  ∀ (s : State) (ha : BitVec 16) (w : Word) (ts : List Turn),
    (0x20 ≤ ha.toNat ∧ ha.toNat ≤ 0x3FFF) ∨ (0x4400 ≤ ha.toNat ∧ ha.toNat ≤ 0x7FFF) →
    (s.turns = .host (.read ha) :: ts → step s = .next { s with turns := ts, hostData := 0 }) ∧
    (s.turns = .host (.write ha w) :: ts → step s = .next { s with turns := ts })

/-- R202: address bits 1:0 are ignored: an access goes to the aligned word. -/
def Obligations.HostAccessesAreAligned : Prop :=
  ∀ (s : State) (ha : BitVec 16) (w : Word),
    s.hostStep (.read ha) = s.hostStep (.read (ha &&& 0xFFFC)) ∧
    s.hostStep (.write ha w) = s.hostStep (.write (ha &&& 0xFFFC) w)

/-- R204: the host word at DMEM byte offset 4k is little-endian, both ways; a write touches those four bytes alone. -/
def Obligations.HostDmemWordsAreLittleEndian : Prop :=
  ∀ (s : State) (ha : BitVec 16) (w : Word) (ts : List Turn) (k : Nat), ha.toNat = 0x4000 + 4 * k → k < 256 →
    s.busy = false →
    (s.turns = .host (.read ha) :: ts → ∃ t, step s = .next t ∧
      t.hostData = s.dmemByte (4 * k + 3) ++ s.dmemByte (4 * k + 2) ++ s.dmemByte (4 * k + 1) ++ s.dmemByte (4 * k) ∧
      { t with hostData := s.hostData, turns := s.turns } = s) ∧
    (s.turns = .host (.write ha w) :: ts → ∃ t, step s = .next t ∧
      (∀ j, j < 4 → t.dmemByte (4 * k + j) = w.extractLsb' (8 * j) 8) ∧
      (∀ a, a < 4 * k ∨ 4 * k + 4 ≤ a → t.dmemByte a = s.dmemByte a) ∧
      { t with dmem := s.dmem, turns := s.turns } = s)

/-- From R205: the host word at 0x8000 + 4n is IMEM word n, the word the sequencer fetches at pc = n. -/
def Obligations.HostImemWords : Prop :=
  ∀ (s : State) (ha : BitVec 16) (w : Word) (ts : List Turn) (n : Nat), ha.toNat = 0x8000 + 4 * n → n < 8192 →
    s.busy = false →
    (s.turns = .host (.read ha) :: ts →
      step s = .next { s with turns := ts, hostData := s.imemWord n }) ∧
    (s.turns = .host (.write ha w) :: ts → ∃ t, step s = .next t ∧ t.imemWord n = w ∧
      (∀ j, j ≠ n → t.imemWord j = s.imemWord j) ∧ { t with imem := s.imem, turns := s.turns } = s)

/-- From R217: during a run a host write to IMEM or DMEM is dropped and a read answers 0, and both set HACC. -/
def Obligations.MemoryIsLockedDuringRun : Prop :=
  ∀ (s : State) (ha : BitVec 16) (w : Word) (ts : List Turn),
    (0x4000 ≤ ha.toNat ∧ ha.toNat ≤ 0x43FF) ∨ 0x8000 ≤ ha.toNat → s.busy = true →
    (s.turns = .host (.read ha) :: ts → step s = .next { s with turns := ts, hostData := 0, hacc := true }) ∧
    (s.turns = .host (.write ha w) :: ts → step s = .next { s with turns := ts, hacc := true })

/-- R128: IRQ is DONE and IE; a write of 1 to DONE, a write that clears IE, and an accepted START each drop it. -/
def Obligations.IrqIsDoneAndEnabled : Prop :=
  (∀ s : State, s.irq = true ↔ s.done = true ∧ s.ie = true) ∧
  (∀ (s t : State) (ha : BitVec 16) (w : Word) (ts : List Turn), s.turns = .host (.write ha w) :: ts →
    (ha.toNat / 4 = 2 ∧ w.getLsbD 1 = true) ∨
    (ha.toNat / 4 = 1 ∧ w.getLsbD 1 = false) ∨
    (ha.toNat / 4 = 1 ∧ s.busy = false ∧ w.getLsbD 0 = true) →
    step s = .next t → t.irq = false)

/-- From R101, R104, R127 and R200: no host read tells two states apart that differ in F, S, C, SG or pc alone; a read of RETIRED
during a run, which R127 bounds by the run's final count, not if that count is the same. -/
def Obligations.HostReadsRevealNoRegister : Prop :=
  ∀ (s t : State) (ha : BitVec 16), { t with f := s.f, sc := s.sc, c := s.c, sg := s.sg, pc := s.pc } = s →
    ((ha.toNat / 4 = 7 → s.busy = true → t.finalCount = s.finalCount) →
      (t.hostStep (.read ha)).hostData = (s.hostStep (.read ha)).hostData) ∧
    (t.hostStep (.read ha)).hacc = (s.hostStep (.read ha)).hacc ∧ t.irq = s.irq

/-! ### Field arithmetic -/

/-- R401, R402, R403: ADD, SUB and MUL compute the exact result modulo P and write only their destination. -/
def Obligations.AddSubMulWriteResidues : Prop :=
  RowDecodes 0xFC003FFF 0x10000000 (fun w => .add (wordFX w) (wordFY w) (wordFZ w)) ∧
  RowDecodes 0xFC003FFF 0x14000000 (fun w => .sub (wordFX w) (wordFY w) (wordFZ w)) ∧
  RowDecodes 0xFC003FFF 0x18000000 (fun w => .mul (wordFX w) (wordFY w) (wordFZ w)) ∧
  ∀ (d a b : FReg) (s : State),
    (∃ t, exec (.add d a b) s = .next t ∧ WroteOnlyF d s t ∧
      (t.readF d).val = ((s.readF a).val + (s.readF b).val) % P) ∧
    (∃ t, exec (.sub d a b) s = .next t ∧ WroteOnlyF d s t ∧
      ((t.readF d).val : Int) = ((s.readF a).val - (s.readF b).val : Int) % P) ∧
    (∃ t, exec (.mul d a b) s = .next t ∧ WroteOnlyF d s t ∧
      (t.readF d).val = ((s.readF a).val * (s.readF b).val) % P)

/-- R404, R405, R406: SQR, NEG and MOV. -/
def Obligations.SqrNegMovWriteResidues : Prop :=
  RowDecodes 0xFC03FFFF 0x1C000000 (fun w => .sqr (wordFX w) (wordFY w)) ∧
  RowDecodes 0xFC03FFFF 0x20000000 (fun w => .neg (wordFX w) (wordFY w)) ∧
  RowDecodes 0xFC03FFFF 0x24000000 (fun w => .mov (wordFX w) (wordFY w)) ∧
  ∀ (d a : FReg) (s : State),
    (∃ t, exec (.sqr d a) s = .next t ∧ WroteOnlyF d s t ∧
      (t.readF d).val = ((s.readF a).val * (s.readF a).val) % P) ∧
    (∃ t, exec (.neg d a) s = .next t ∧ WroteOnlyF d s t ∧
      (t.readF d).val = if (s.readF a).val = 0 then 0 else P - (s.readF a).val) ∧
    (∃ t, exec (.mov d a) s = .next t ∧ WroteOnlyF d s t ∧ t.readF d = s.readF a)

/-- R407: LDC writes the ROM's constant, the eight of R132's table; a word with LDC's opcode and IMM[13:3] not zero is
illegal: it matches no row. -/
def Obligations.LdcWritesRomConstant : Prop :=
  RowDecodes 0xFC3FFFF8 0x28000000 (fun w => .ldc (wordFX w) (wordK w)) ∧
  (∀ w : Word, w.toNat / 2 ^ 26 = 0x0A → w.toNat % 2 ^ 14 / 2 ^ 3 ≠ 0 → matchesSomeRow w = false) ∧
  ∀ (d : FReg) (k : RomIx) (s : State), ∃ t, exec (.ldc d k) s = .next t ∧ WroteOnlyF d s t ∧
    some (t.readF d).val = [0, 1, 9, 486662, 121665,
      0x2b8324804fc1df0b2b4d00993dfbd7a72f431806ad2fe478c4ee1b274a0ea0b0,
      0x52036cee2b6ffe738cc740797779e89800700a4d4141d8ab75eb4dca135978a3, 2][k.val]?

/-- From R408: INV writes the source to the power P - 2 modulo P, 0 for 0, without a trap. That its latency is a number fixed by the
opcode (R809) is the form the model gives time, which it otherwise leaves out (log entry 14). -/
def Obligations.InvWritesPower : Prop :=
  RowDecodes 0xFC03FFFF 0x30000000 (fun w => .inv (wordFX w) (wordFY w)) ∧
  (∀ (d a : FReg) (s : State), ∃ t, exec (.inv d a) s = .next t ∧ WroteOnlyF d s t ∧
    (t.readF d).val = (s.readF a).val ^ (P - 2) % P ∧ ((s.readF a).val = 0 → (t.readF d).val = 0)) ∧
  ∀ d a d' a' : FReg, latency (.inv d a) = latency (.inv d' a')

/-- R409: SQRT writes the first of the two candidates that squares to the source, and traps NOT_A_SQUARE exactly when
the source has no square root; where it does not trap the result squares to the source, and for a source other than 0 at
most one candidate does. -/
def Obligations.SqrtWritesCandidateOrTraps : Prop :=
  RowDecodes 0xFC03FFFF 0x34000000 (fun w => .sqrt (wordFX w) (wordFY w)) ∧
  ∀ (d a : FReg) (s : State),
    let x := (s.readF a).val
    let r1 := x ^ ((P + 3) / 8) % P
    let r2 := r1 * 0x2b8324804fc1df0b2b4d00993dfbd7a72f431806ad2fe478c4ee1b274a0ea0b0 % P
    (r1 * r1 % P = x → ∃ t, exec (.sqrt d a) s = .next t ∧ WroteOnlyF d s t ∧ (t.readF d).val = r1) ∧
    (r1 * r1 % P ≠ x → r2 * r2 % P = x →
      ∃ t, exec (.sqrt d a) s = .next t ∧ WroteOnlyF d s t ∧ (t.readF d).val = r2) ∧
    (r1 * r1 % P ≠ x → r2 * r2 % P ≠ x → ∃ t, exec (.sqrt d a) s = .next t ∧
      Trapped .notASquare s t ∧ SameRng s t) ∧
    ((r1 * r1 % P ≠ x ∧ r2 * r2 % P ≠ x) ↔ ∀ y : Nat, y * y % P ≠ x) ∧
    (x ≠ 0 → ¬(r1 * r1 % P = x ∧ r2 * r2 % P = x))

/-- From R410: the field identities, on what the instructions compute. -/
def Obligations.FieldIdentities : Prop :=
  ∀ a b c : Fe, fadd a b = fadd b a ∧ fmul a b = fmul b a ∧ fadd a feZero = a ∧ fmul a feOne = a ∧
    fmul a feZero = feZero ∧ fadd a (fneg a) = feZero ∧ fsub a b = fadd a (fneg b) ∧
    fmul a (fadd b c) = fadd (fmul a b) (fmul a c) ∧ (a ≠ feZero → fmul a (finv a) = feOne)

/-! ### Select, swap and flags -/

/-- R451: CSEL writes Y when C = 1 and Z when C = 0, which is the masked form of its rule. -/
def Obligations.CselSelectsByC : Prop :=
  RowDecodes 0xFC003FFF 0x40000000 (fun w => .csel (wordFX w) (wordFY w) (wordFZ w)) ∧
  ∀ (d a b : FReg) (s : State), ∃ t, exec (.csel d a b) s = .next t ∧ WroteOnlyF d s t ∧
    t.readF d = (if s.c then s.readF a else s.readF b) ∧
    feBits (t.readF d) = (feBits (s.readF a) &&& condMask s.c) ||| (feBits (s.readF b) &&& ~~~(condMask s.c)) ∧
    (feBits (t.readF d)).toNat = (t.readF d).val

/-- R452: CSWAP exchanges its registers when C = 1 and leaves them when C = 0, which is the masked form of its rule; nothing else but pc
and RETIRED changes. -/
def Obligations.CswapSwapsByC : Prop :=
  RowDecodes 0xFFC03FFF 0x44000000 (fun w => .cswap (wordFY w) (wordFZ w)) ∧
  ∀ (a b : FReg) (s : State), ∃ t, exec (.cswap a b) s = .next t ∧
    t.readF a = (if s.c then s.readF b else s.readF a) ∧ t.readF b = (if s.c then s.readF a else s.readF b) ∧
    feBits (t.readF a) = feBits (s.readF a) ^^^ ((feBits (s.readF a) ^^^ feBits (s.readF b)) &&& condMask s.c) ∧
    feBits (t.readF b) = feBits (s.readF b) ^^^ ((feBits (s.readF a) ^^^ feBits (s.readF b)) &&& condMask s.c) ∧
    Retired s t ∧ (∀ r, r ≠ a → r ≠ b → t.readF r = s.readF r) ∧ SameScalars s t ∧ SameFlags s t ∧
    SameMemory s t ∧ SameControl s t ∧ SameRng s t

/-- R453: CEQ sets C to the equality of two values, which is equality of their 32 canonical bytes. -/
def Obligations.CeqComparesValues : Prop :=
  RowDecodes 0xFFC03FFF 0x48000000 (fun w => .ceq (wordFY w) (wordFZ w)) ∧
  ∀ (a b : FReg) (s : State), ∃ t, exec (.ceq a b) s = .next t ∧ WroteOnlyC s t ∧
    (t.c = true ↔ s.readF a = s.readF b) ∧
    (t.c = true ↔ ∀ j, j < 32 → (s.readF a).val / 256 ^ j % 256 = (s.readF b).val / 256 ^ j % 256)

/-- R454, R455: CBITF and CBITS copy a bit of a field or scalar register to C; bit 255 of a field register is 0. -/
def Obligations.BitTestsCopyBitToC : Prop :=
  RowDecodes 0xFFC3FF00 0x4C000000 (fun w => .cbitf (wordFY w) (wordN w)) ∧
  RowDecodes 0xFFF3FF00 0x50000000 (fun w => .cbits (wordSY w) (wordN w)) ∧
  ∀ (a : FReg) (r : SReg) (n : BitIx) (s : State),
    (∃ t, exec (.cbitf a n) s = .next t ∧ WroteOnlyC s t ∧
      (t.c = true ↔ (s.readF a).val / 2 ^ n.val % 2 = 1) ∧ (n = 255 → t.c = false)) ∧
    (∃ t, exec (.cbits r n) s = .next t ∧ WroteOnlyC s t ∧
      (t.c = true ↔ (s.readS r).toNat / 2 ^ n.val % 2 = 1))

/-- R456: CFLG sets C to 0, 1, SG or the inverse of C. -/
def Obligations.CflgSetsC : Prop :=
  RowDecodes 0xFFFFFFFC 0x54000000 (fun w => .cflg (wordMode w)) ∧
  ∀ (m : CflgMode) (s : State), ∃ t, exec (.cflg m) s = .next t ∧ WroteOnlyC s t ∧
    some t.c = [false, true, s.sg, !s.c][m.number]?

/-! ### Scalars -/

/-- R501: CLAMP clears bits 0, 1, 2 and 255, sets bit 254 and copies the rest; in bytes, byte 0 and byte 31 are masked. -/
def Obligations.ClampMasksBits : Prop :=
  RowDecodes 0xFF33FFFF 0x70000000 (fun w => .clamp (wordSX w) (wordSY w)) ∧
  ∀ (d a : SReg) (s : State), ∃ t, exec (.clamp d a) s = .next t ∧ WroteOnlyS d s t ∧ SameRng s t ∧
    (∀ j, j < 256 → (t.readS d).getLsbD j =
      if j ≤ 2 ∨ j = 255 then false else if j = 254 then true else (s.readS a).getLsbD j) ∧
    (t.readS d).extractLsb' 0 8 = (s.readS a).extractLsb' 0 8 &&& 0xF8 ∧
    (t.readS d).extractLsb' 248 8 = ((s.readS a).extractLsb' 248 8 &&& 0x7F) ||| 0x40 ∧
    (∀ j, 1 ≤ j → j ≤ 30 → (t.readS d).extractLsb' (8 * j) 8 = (s.readS a).extractLsb' (8 * j) 8)

/-- From R503: clamping twice is clamping once. -/
def Obligations.ClampIsIdempotent : Prop :=
  ∀ (d a : SReg) (s t u : State), exec (.clamp d a) s = .next t → exec (.clamp d d) t = .next u →
    u.readS d = t.readS d

/-- R502 and R703: RND writes the 32 bytes the collaborator answers as they are, and a failure traps RNG_FAILURE with nothing
written. -/
def Obligations.RndWritesAnswerOrTraps : Prop :=
  RowDecodes 0xFF3FFFFF 0x74000000 (fun w => .rnd (wordSX w)) ∧
  ∀ (d : SReg) (s : State),
    (∀ b, s.rngAnswer = .ok b → ∃ t, exec (.rnd d) s = .next t ∧ WroteOnlyS d s t ∧ t.readS d = b) ∧
    (s.rngAnswer = .fail → ∃ t, exec (.rnd d) s = .next t ∧ Trapped .rngFailure s t)

/-- From R131, R220, R502 and R811, in the model's own fields (log entries 4 and 5): an answered RND closes one request, so that
the next draws the next answer; while no answer comes RND changes nothing but that its request is in flight. -/
def Obligations.RndMakesOneRequest : Prop :=
  ∀ (d : SReg) (s : State),
    (s.rngAnswer ≠ .silent → ∃ t, exec (.rnd d) s = .next t ∧
      t.rngDraws = s.rngDraws + 1 ∧ t.rngAnswers = s.rngAnswers.tail ∧ t.rngBusy = false) ∧
    (s.rngAnswer = .silent → exec (.rnd d) s = .next { s with rngBusy := true })

/-! ### The birational map -/

/-- R551: M2E writes (u - 1)(u + 1)^(P - 2) modulo P, and traps INVALID_POINT exactly for u = P - 1. -/
def Obligations.M2eMapsOrTraps : Prop :=
  RowDecodes 0xFC03FFFF 0x60000000 (fun w => .m2e (wordFX w) (wordFY w)) ∧
  ∀ (d a : FReg) (s : State),
    let u := (s.readF a).val
    (u ≠ P - 1 → ∃ t, exec (.m2e d a) s = .next t ∧ WroteOnlyF d s t ∧
      (t.readF d).val = (u + P - 1) * (u + 1) ^ (P - 2) % P) ∧
    (u = P - 1 → ∃ t, exec (.m2e d a) s = .next t ∧ Trapped .invalidPoint s t ∧ SameRng s t)

/-- R552: E2M writes (1 + y)(1 - y)^(P - 2) modulo P, whatever SG is, and traps INVALID_POINT exactly for y = 1. -/
def Obligations.E2mMapsOrTraps : Prop :=
  RowDecodes 0xFC03FFFF 0x64000000 (fun w => .e2m (wordFX w) (wordFY w)) ∧
  ∀ (d a : FReg) (s : State),
    let y := (s.readF a).val
    (y ≠ 1 → ∃ t, exec (.e2m d a) s = .next t ∧ WroteOnlyF d s t ∧
      (t.readF d).val = (1 + y) * (P + 1 - y) ^ (P - 2) % P) ∧
    (y = 1 → ∃ t, exec (.e2m d a) s = .next t ∧ Trapped .invalidPoint s t ∧ SameRng s t)

/-- R553: E2M of M2E of u is u for every u but P - 1, and M2E of E2M of y is y for every y but 1; the second instruction
never traps. -/
def Obligations.BirationalRoundTrip : Prop :=
  (∀ (d e a : FReg) (s : State), (s.readF a).val ≠ P - 1 → ∃ t u, exec (.m2e d a) s = .next t ∧
    (t.readF d).val ≠ 1 ∧ exec (.e2m e d) t = .next u ∧ u.readF e = s.readF a ∧ WroteOnlyF e t u) ∧
  (∀ (d e a : FReg) (s : State), (s.readF a).val ≠ 1 → ∃ t u, exec (.e2m d a) s = .next t ∧
    (t.readF d).val ≠ P - 1 ∧ exec (.m2e e d) t = .next u ∧ u.readF e = s.readF a ∧ WroteOnlyF e t u)

/-! ### The codec -/

/-- R601: LDU masks bit 255 of the little-endian slot value, reduces it modulo P, and never traps. -/
def Obligations.LduDecodesMontgomeryU : Prop :=
  RowDecodes 0xFC3FFFE0 0x80000000 (fun w => .ldu (wordFX w) (wordSlot w)) ∧
  ∀ (d : FReg) (k : Slot) (s : State), ∃ t, exec (.ldu d k) s = .next t ∧ WroteOnlyF d s t ∧
    (t.readF d).val = (∑ j ∈ Finset.range 32, (s.dmemByte (32 * k.val + j)).toNat * 2 ^ (8 * j)) % 2 ^ 255 % P

/-- R602: LDE splits the slot value into y and the sign bit; y not below P traps INVALID_ENCODING when STRICT = 1 and is
reduced when STRICT = 0. -/
def Obligations.LdeDecodesEdwardsY : Prop :=
  RowDecodes 0xFC3FFFE0 0x84000000 (fun w => .lde (wordFX w) (wordSlot w)) ∧
  ∀ (d : FReg) (k : Slot) (s : State),
    let v := ∑ j ∈ Finset.range 32, (s.dmemByte (32 * k.val + j)).toNat * 2 ^ (8 * j)
    (¬(v % 2 ^ 255 ≥ P ∧ s.strict = true) → ∃ t, exec (.lde d k) s = .next t ∧
      (t.readF d).val = v % 2 ^ 255 % P ∧ (t.sg = true ↔ 2 ^ 255 ≤ v) ∧ t.c = s.c ∧
      Retired s t ∧ (∀ r, r ≠ d → t.readF r = s.readF r) ∧ SameScalars s t ∧ SameMemory s t ∧
      SameControl s t ∧ SameRng s t) ∧
    (v % 2 ^ 255 ≥ P → s.strict = true → ∃ t, exec (.lde d k) s = .next t ∧
      Trapped .invalidEncoding s t ∧ SameRng s t)

/-- R603: LDS loads all 256 bits of the slot. -/
def Obligations.LdsLoadsRawScalar : Prop :=
  RowDecodes 0xFF3FFFE0 0x88000000 (fun w => .lds (wordSX w) (wordSlot w)) ∧
  ∀ (d : SReg) (k : Slot) (s : State), ∃ t, exec (.lds d k) s = .next t ∧ WroteOnlyS d s t ∧ SameRng s t ∧
    (t.readS d).toNat = ∑ j ∈ Finset.range 32, (s.dmemByte (32 * k.val + j)).toNat * 2 ^ (8 * j)

/-- R604: STF writes the 32 little-endian bytes of the field value, whatever SG is, so that bit 7 of byte 31 is 0, and writes nothing
outside its slot. -/
def Obligations.StfEncodesFieldValue : Prop :=
  RowDecodes 0xFC3FFFE0 0x90000000 (fun w => .stf (wordSlot w) (wordFX w)) ∧
  ∀ (k : Slot) (r : FReg) (s : State), ∃ t, exec (.stf k r) s = .next t ∧ WroteOnlySlot k s t ∧
    (∀ j, j < 32 → (t.dmemByte (slotOffset k + j)).toNat = (s.readF r).val / 256 ^ j % 256) ∧
    (t.dmemByte (slotOffset k + 31)).getLsbD 7 = false

/-- R605: STS writes all 32 bytes of the scalar and nothing outside its slot. -/
def Obligations.StsStoresRawScalar : Prop :=
  RowDecodes 0xFF3FFFE0 0x94000000 (fun w => .sts (wordSlot w) (wordSX w)) ∧
  ∀ (k : Slot) (r : SReg) (s : State), ∃ t, exec (.sts k r) s = .next t ∧ WroteOnlySlot k s t ∧
    ∀ j, j < 32 → (t.dmemByte (slotOffset k + j)).toNat = (s.readS r).toNat / 256 ^ j % 256

/-- R606: what STF and STS write, LDU, LDE and LDS read back; two field values are equal exactly when their STF bytes are. -/
def Obligations.CodecRoundTrips : Prop :=
  (∀ (k : Slot) (r d : FReg) (s t : State), exec (.stf k r) s = .next t →
    (∃ u, exec (.ldu d k) t = .next u ∧ u.readF d = s.readF r) ∧
    (∃ u, exec (.lde d k) t = .next u ∧ u.readF d = s.readF r ∧ u.sg = false ∧ Retired t u)) ∧
  (∀ (k : Slot) (r d : SReg) (s t : State), exec (.sts k r) s = .next t →
    ∃ u, exec (.lds d k) t = .next u ∧ u.readS d = s.readS r) ∧
  (∀ (k : Slot) (r q : FReg) (s t u : State), exec (.stf k r) s = .next t → exec (.stf k q) s = .next u →
    ((∀ j, j < 32 → t.dmemByte (slotOffset k + j) = u.dmemByte (slotOffset k + j)) ↔ s.readF r = s.readF q))

/-! ### Sequencing -/

/-- R651: HALT is counted and ends the run without a trap; pc keeps its index, which the PC CSR shows. R652: NOP changes pc and
RETIRED alone. -/
def Obligations.HaltEndsRunAndNopAdvances : Prop :=
  RowDecodes 0xFFFFFFFF 0x04000000 (fun _ => .halt) ∧
  RowDecodes 0xFFFFFFFF 0x08000000 (fun _ => .nop) ∧
  (∀ s : State, ∃ t, exec .halt s = .next t ∧ Halted s t ∧ SameRng s t) ∧
  ∀ s : State, exec .nop s = .next { s with pc := s.pc + 1, retired := s.retired + 1 }
end

