-- ==== Sys2Proof/Laws/Prime.lean ====
section
/-! SUPPORT. `P` is prime (R10), by a chain of Lucas certificates that the kernel evaluates. -/

namespace Sys2Proof.Laws

/-- `acc * b ^ e mod m` for `e < 2 ^ k`, by squaring. -/
def modPowAux (m : Nat) : Nat → Nat → Nat → Nat → Nat
  | _, _, 0, acc => acc % m
  | b, e, k + 1, acc => modPowAux m (b * b % m) (e / 2) k (if e % 2 = 1 then acc * b % m else acc)

/-- `b ^ e mod m`. -/
def modPow (m b e : Nat) : Nat := modPowAux m b e (e.log2 + 1) 1

theorem modPowAux_eq (m b e k acc : Nat) (h : e < 2 ^ k) :
    modPowAux m b e k acc = acc * b ^ e % m := by
  induction k generalizing b e acc with
  | zero => obtain rfl : e = 0 := by simpa using h
            simp [modPowAux]
  | succ k ih =>
    rw [modPowAux, ih _ _ _ (by rw [Nat.pow_succ] at h; omega)]
    have hsq : (b * b % m) ^ (e / 2) ≡ b ^ (2 * (e / 2)) [MOD m] := by
      rw [Nat.pow_mul, Nat.pow_two]
      exact (Nat.mod_modEq _ _).pow _
    split
    · next ho =>
      have he : e = 2 * (e / 2) + 1 := by omega
      calc acc * b % m * (b * b % m) ^ (e / 2) % m
          = acc * b * b ^ (2 * (e / 2)) % m := ((Nat.mod_modEq _ _).mul hsq)
        _ = acc * b ^ e % m := by conv_rhs => rw [he, Nat.pow_succ]
                                  ring_nf
    · next ho =>
      have he : e = 2 * (e / 2) := by omega
      calc acc * (b * b % m) ^ (e / 2) % m
          = acc * b ^ (2 * (e / 2)) % m := ((Nat.ModEq.refl _).mul hsq)
        _ = acc * b ^ e % m := by rw [← he]

theorem modPow_eq (m b e : Nat) : modPow m b e = b ^ e % m := by
  rw [modPow, modPowAux_eq _ _ _ _ _ Nat.lt_log2_self, Nat.one_mul]

/-- A Lucas certificate: `g` has order `p - 1` modulo `p`, whose prime factors are `fs`. -/
def certified (p g : Nat) (fs : List Nat) : Bool :=
  decide (1 < p) && decide (fs.prod = p - 1) && decide (modPow p g (p - 1) = 1) &&
    fs.all fun q => decide (modPow p g ((p - 1) / q) ≠ 1)

theorem prime_of_certified {p g : Nat} {fs : List Nat} (h : certified p g fs = true)
    (hfs : ∀ q ∈ fs, q.Prime) : p.Prime := by
  simp only [certified, Bool.and_eq_true, decide_eq_true_eq, List.all_eq_true] at h
  obtain ⟨⟨⟨h1, h2⟩, h3⟩, h4⟩ := h
  have hcast : ∀ e, modPow p g e = 1 ↔ ((g : ZMod p)) ^ e = 1 := fun e => by
    rw [modPow_eq, ← Nat.cast_pow, ← Nat.cast_one (R := ZMod p), ZMod.natCast_eq_natCast_iff,
      Nat.ModEq, Nat.mod_eq_of_lt h1]
  refine lucas_primality p (g : ZMod p) ((hcast _).1 h3) fun q hq hd => ?_
  have hmem : ∃ r ∈ fs, q ∣ r := (Nat.Prime.prime hq).dvd_prod_iff.1 (h2 ▸ hd)
  obtain ⟨r, hr, hqr⟩ := hmem
  rw [(Nat.prime_dvd_prime_iff_eq hq (hfs r hr)).1 hqr]
  exact fun e => h4 r hr ((hcast _).2 e)

theorem prime_569003 : Nat.Prime 569003 := by norm_num
theorem prime_2773320623 : Nat.Prime 2773320623 :=
  prime_of_certified (g := 5) (fs := [2, 2437, 569003]) (by decide +kernel)
    (by simp only [List.mem_cons, List.not_mem_nil, or_false]
        rintro q (rfl | rfl | rfl) <;> first | exact prime_569003 | norm_num)
theorem prime_72106336199 : Nat.Prime 72106336199 :=
  prime_of_certified (g := 7) (fs := [2, 13, 2773320623]) (by decide +kernel)
    (by simp only [List.mem_cons, List.not_mem_nil, or_false]
        rintro q (rfl | rfl | rfl) <;> first | exact prime_2773320623 | norm_num)
theorem prime_8574133 : Nat.Prime 8574133 := by norm_num
theorem prime_1919519569386763 : Nat.Prime 1919519569386763 :=
  prime_of_certified (g := 2) (fs := [2, 3, 7, 19, 47, 47, 127, 8574133]) (by decide +kernel)
    (by simp only [List.mem_cons, List.not_mem_nil, or_false]
        rintro q (rfl | rfl | rfl | rfl | rfl | rfl | rfl | rfl) <;> first | exact prime_8574133 | norm_num)
theorem prime_75445702479781427272750846543864801 : Nat.Prime 75445702479781427272750846543864801 :=
  prime_of_certified (g := 7) (fs := [2, 2, 2, 2, 2, 3, 3, 5, 5, 75707, 72106336199, 1919519569386763]) (by decide +kernel)
    (by simp only [List.mem_cons, List.not_mem_nil, or_false]
        rintro q (rfl | rfl | rfl | rfl | rfl | rfl | rfl | rfl | rfl | rfl | rfl | rfl) <;>
          first | exact prime_72106336199 | exact prime_1919519569386763 | norm_num)
theorem prime_430751 : Nat.Prime 430751 := by norm_num
theorem prime_31757755568855353 : Nat.Prime 31757755568855353 :=
  prime_of_certified (g := 10) (fs := [2, 2, 2, 3, 31, 107, 223, 4153, 430751]) (by decide +kernel)
    (by simp only [List.mem_cons, List.not_mem_nil, or_false]
        rintro q (rfl | rfl | rfl | rfl | rfl | rfl | rfl | rfl | rfl) <;> first | exact prime_430751 | norm_num)
theorem prime_1923133 : Nat.Prime 1923133 := by norm_num
theorem prime_large_factor :
    Nat.Prime 74058212732561358302231226437062788676166966415465897661863160754340907 :=
  prime_of_certified (g := 2)
    (fs := [2, 3, 353, 57467, 132049, 1923133, 31757755568855353, 75445702479781427272750846543864801]) (by decide +kernel)
    (by simp only [List.mem_cons, List.not_mem_nil, or_false]
        rintro q (rfl | rfl | rfl | rfl | rfl | rfl | rfl | rfl) <;>
          first
          | exact prime_1923133
          | exact prime_31757755568855353
          | exact prime_75445702479781427272750846543864801
          | norm_num)

/-- The field modulus is prime (R10). -/
theorem P_prime : Nat.Prime P :=
  prime_of_certified (g := 2)
    (fs := [2, 2, 3, 65147, 74058212732561358302231226437062788676166966415465897661863160754340907]) (by decide +kernel)
    (by simp only [List.mem_cons, List.not_mem_nil, or_false]
        rintro q (rfl | rfl | rfl | rfl | rfl) <;> first | exact prime_large_factor | norm_num)

end Sys2Proof.Laws
end

