-- ==== Sys2Proof/Laws/Field.lean ====
section
/-! SUPPORT. The field operations as arithmetic modulo `P`, and as operations of `ZMod P`. -/

namespace Sys2Proof.Machine

@[simp] theorem Fe_ofNat_val (n : Nat) : (Fe.ofNat n).val = n % P := rfl

theorem Fe_ofNat_self (a : Fe) : Fe.ofNat a.val = a := Fin.ext (Nat.mod_eq_of_lt a.isLt)

theorem fadd_val (a b : Fe) : (fadd a b).val = (a.val + b.val) % P := rfl
theorem fsub_val (a b : Fe) : (fsub a b).val = (a.val + (P - b.val)) % P := rfl
theorem fmul_val (a b : Fe) : (fmul a b).val = (a.val * b.val) % P := rfl
theorem fneg_val (a : Fe) : (fneg a).val = (P - a.val) % P := rfl

/-- The residue below `P` is the element itself. -/
theorem Fe_val_lt (a : Fe) : a.val < P := a.isLt

theorem P_lt : P < 2 ^ 255 := by decide

theorem powMod_modEq (b e k acc : Nat) (h : e < 2 ^ k) : powMod b e k acc ≡ acc * b ^ e [MOD P] := by
  induction k generalizing b e acc with
  | zero => obtain rfl : e = 0 := by simpa using h
            simp [powMod, Nat.ModEq.refl]
  | succ k ih =>
    rw [powMod]
    refine (ih _ _ _ (by rw [Nat.pow_succ] at h; omega)).trans ?_
    have hsq : (b * b % P) ^ (e / 2) ≡ b ^ (2 * (e / 2)) [MOD P] := by
      rw [Nat.pow_mul, Nat.pow_two]
      exact (Nat.mod_modEq _ _).pow _
    split
    · next ho =>
      have he : e = 2 * (e / 2) + 1 := by omega
      have hmul := (Nat.mod_modEq (acc * b) P).mul hsq
      have heq : acc * b * b ^ (2 * (e / 2)) = acc * b ^ e := by
        conv_rhs => rw [he, Nat.pow_succ]
        ring
      rwa [heq] at hmul
    · next ho =>
      have he : e = 2 * (e / 2) := by omega
      have hmul := (Nat.ModEq.refl (n := P) acc).mul hsq
      rwa [← he] at hmul

/-- Squaring computes the power (R13). -/
theorem fpow_val (a : Fe) (e : Nat) : (fpow a e).val = a.val ^ e % P := by
  have h := powMod_modEq a.val e (e.log2 + 1) 1 Nat.lt_log2_self
  rw [Nat.one_mul] at h
  exact h

theorem finv_val (a : Fe) : (finv a).val = a.val ^ (P - 2) % P := fpow_val a (P - 2)

/-- INV of 0 is 0 (R408). -/
theorem finv_zero : finv feZero = feZero := by decide +kernel

/-- A field value in `ZMod P`. -/
def feZ (a : Fe) : ZMod P := (a.val : ZMod P)

theorem feZ_inj {a b : Fe} : feZ a = feZ b ↔ a = b := by
  constructor
  · intro h
    have := (ZMod.natCast_eq_natCast_iff _ _ _).1 h
    exact Fin.ext (Nat.ModEq.eq_of_lt_of_lt this a.isLt b.isLt)
  · rintro rfl; rfl

@[simp] theorem feZ_ofNat (n : Nat) : feZ (Fe.ofNat n) = (n : ZMod P) := by
  simp [feZ, ZMod.natCast_mod]

@[simp] theorem feZ_fadd (a b : Fe) : feZ (fadd a b) = feZ a + feZ b := by
  simp [fadd, feZ]

@[simp] theorem feZ_fsub (a b : Fe) : feZ (fsub a b) = feZ a - feZ b := by
  simp [fsub, feZ, Nat.cast_sub b.isLt.le, sub_eq_add_neg]

@[simp] theorem feZ_fmul (a b : Fe) : feZ (fmul a b) = feZ a * feZ b := by
  simp [fmul, feZ]

@[simp] theorem feZ_fneg (a : Fe) : feZ (fneg a) = -feZ a := by
  simp [fneg, feZ, Nat.cast_sub a.isLt.le]

@[simp] theorem feZ_fpow (a : Fe) (e : Nat) : feZ (fpow a e) = feZ a ^ e := by
  rw [feZ, fpow_val, ZMod.natCast_mod, Nat.cast_pow, feZ]

@[simp] theorem feZ_feOne : feZ feOne = 1 := by simp [feOne]
@[simp] theorem feZ_feZero : feZ feZero = 0 := by simp [feZero]

theorem feZ_eq_zero {a : Fe} : feZ a = 0 ↔ a = feZero := by rw [← feZ_feZero, feZ_inj]

/-- Every element of `ZMod P` is a field value. -/
theorem feZ_surjective (z : ZMod P) : ∃ a : Fe, feZ a = z := by
  have : NeZero P := ⟨P_pos.ne'⟩
  exact ⟨⟨z.val, ZMod.val_lt z⟩, by simp [feZ]⟩

end Sys2Proof.Machine
end

