-- ==== Sys2Proof/Laws/State.lean ====
section
/-! SUPPORT. What each field of State is after each named update: one lemma per field per update, each true by
unfolding the update once, so that no later proof unfolds a record update. -/

namespace Sys2Proof.Machine

/-! ### State.setByte -/

@[simp] theorem State.setByte_f (s : State) (a : Nat) (v : Byte) : (s.setByte a v).f = s.f := rfl
@[simp] theorem State.setByte_sc (s : State) (a : Nat) (v : Byte) : (s.setByte a v).sc = s.sc := rfl
@[simp] theorem State.setByte_c (s : State) (a : Nat) (v : Byte) : (s.setByte a v).c = s.c := rfl
@[simp] theorem State.setByte_sg (s : State) (a : Nat) (v : Byte) : (s.setByte a v).sg = s.sg := rfl
@[simp] theorem State.setByte_pc (s : State) (a : Nat) (v : Byte) : (s.setByte a v).pc = s.pc := rfl
@[simp] theorem State.setByte_ie (s : State) (a : Nat) (v : Byte) : (s.setByte a v).ie = s.ie := rfl
@[simp] theorem State.setByte_strict (s : State) (a : Nat) (v : Byte) : (s.setByte a v).strict = s.strict := rfl
@[simp] theorem State.setByte_busy (s : State) (a : Nat) (v : Byte) : (s.setByte a v).busy = s.busy := rfl
@[simp] theorem State.setByte_done (s : State) (a : Nat) (v : Byte) : (s.setByte a v).done = s.done := rfl
@[simp] theorem State.setByte_faulted (s : State) (a : Nat) (v : Byte) : (s.setByte a v).faulted = s.faulted := rfl
@[simp] theorem State.setByte_hacc (s : State) (a : Nat) (v : Byte) : (s.setByte a v).hacc = s.hacc := rfl
@[simp] theorem State.setByte_cause (s : State) (a : Nat) (v : Byte) : (s.setByte a v).cause = s.cause := rfl
@[simp] theorem State.setByte_epc (s : State) (a : Nat) (v : Byte) : (s.setByte a v).epc = s.epc := rfl
@[simp] theorem State.setByte_pcCsr (s : State) (a : Nat) (v : Byte) : (s.setByte a v).pcCsr = s.pcCsr := rfl
@[simp] theorem State.setByte_entry (s : State) (a : Nat) (v : Byte) : (s.setByte a v).entry = s.entry := rfl
@[simp] theorem State.setByte_retired (s : State) (a : Nat) (v : Byte) : (s.setByte a v).retired = s.retired := rfl
@[simp] theorem State.setByte_imem (s : State) (a : Nat) (v : Byte) : (s.setByte a v).imem = s.imem := rfl
@[simp] theorem State.setByte_dmem (s : State) (a : Nat) (v : Byte) : (s.setByte a v).dmem = Memory.set s.dmem a v := rfl
@[simp] theorem State.setByte_rngBusy (s : State) (a : Nat) (v : Byte) : (s.setByte a v).rngBusy = s.rngBusy := rfl
@[simp] theorem State.setByte_powerOn (s : State) (a : Nat) (v : Byte) : (s.setByte a v).powerOn = s.powerOn := rfl
@[simp] theorem State.setByte_rngAnswers (s : State) (a : Nat) (v : Byte) : (s.setByte a v).rngAnswers = s.rngAnswers := rfl
@[simp] theorem State.setByte_rngDraws (s : State) (a : Nat) (v : Byte) : (s.setByte a v).rngDraws = s.rngDraws := rfl
@[simp] theorem State.setByte_busyReads (s : State) (a : Nat) (v : Byte) : (s.setByte a v).busyReads = s.busyReads := rfl
@[simp] theorem State.setByte_hostData (s : State) (a : Nat) (v : Byte) : (s.setByte a v).hostData = s.hostData := rfl
@[simp] theorem State.setByte_turns (s : State) (a : Nat) (v : Byte) : (s.setByte a v).turns = s.turns := rfl

/-! ### State.setImemWord -/

@[simp] theorem State.setImemWord_f (s : State) (i : Nat) (v : Word) : (s.setImemWord i v).f = s.f := rfl
@[simp] theorem State.setImemWord_sc (s : State) (i : Nat) (v : Word) : (s.setImemWord i v).sc = s.sc := rfl
@[simp] theorem State.setImemWord_c (s : State) (i : Nat) (v : Word) : (s.setImemWord i v).c = s.c := rfl
@[simp] theorem State.setImemWord_sg (s : State) (i : Nat) (v : Word) : (s.setImemWord i v).sg = s.sg := rfl
@[simp] theorem State.setImemWord_pc (s : State) (i : Nat) (v : Word) : (s.setImemWord i v).pc = s.pc := rfl
@[simp] theorem State.setImemWord_ie (s : State) (i : Nat) (v : Word) : (s.setImemWord i v).ie = s.ie := rfl
@[simp] theorem State.setImemWord_strict (s : State) (i : Nat) (v : Word) : (s.setImemWord i v).strict = s.strict := rfl
@[simp] theorem State.setImemWord_busy (s : State) (i : Nat) (v : Word) : (s.setImemWord i v).busy = s.busy := rfl
@[simp] theorem State.setImemWord_done (s : State) (i : Nat) (v : Word) : (s.setImemWord i v).done = s.done := rfl
@[simp] theorem State.setImemWord_faulted (s : State) (i : Nat) (v : Word) : (s.setImemWord i v).faulted = s.faulted := rfl
@[simp] theorem State.setImemWord_hacc (s : State) (i : Nat) (v : Word) : (s.setImemWord i v).hacc = s.hacc := rfl
@[simp] theorem State.setImemWord_cause (s : State) (i : Nat) (v : Word) : (s.setImemWord i v).cause = s.cause := rfl
@[simp] theorem State.setImemWord_epc (s : State) (i : Nat) (v : Word) : (s.setImemWord i v).epc = s.epc := rfl
@[simp] theorem State.setImemWord_pcCsr (s : State) (i : Nat) (v : Word) : (s.setImemWord i v).pcCsr = s.pcCsr := rfl
@[simp] theorem State.setImemWord_entry (s : State) (i : Nat) (v : Word) : (s.setImemWord i v).entry = s.entry := rfl
@[simp] theorem State.setImemWord_retired (s : State) (i : Nat) (v : Word) : (s.setImemWord i v).retired = s.retired := rfl
@[simp] theorem State.setImemWord_imem (s : State) (i : Nat) (v : Word) : (s.setImemWord i v).imem = Memory.set s.imem i v := rfl
@[simp] theorem State.setImemWord_dmem (s : State) (i : Nat) (v : Word) : (s.setImemWord i v).dmem = s.dmem := rfl
@[simp] theorem State.setImemWord_rngBusy (s : State) (i : Nat) (v : Word) : (s.setImemWord i v).rngBusy = s.rngBusy := rfl
@[simp] theorem State.setImemWord_powerOn (s : State) (i : Nat) (v : Word) : (s.setImemWord i v).powerOn = s.powerOn := rfl
@[simp] theorem State.setImemWord_rngAnswers (s : State) (i : Nat) (v : Word) : (s.setImemWord i v).rngAnswers = s.rngAnswers := rfl
@[simp] theorem State.setImemWord_rngDraws (s : State) (i : Nat) (v : Word) : (s.setImemWord i v).rngDraws = s.rngDraws := rfl
@[simp] theorem State.setImemWord_busyReads (s : State) (i : Nat) (v : Word) : (s.setImemWord i v).busyReads = s.busyReads := rfl
@[simp] theorem State.setImemWord_hostData (s : State) (i : Nat) (v : Word) : (s.setImemWord i v).hostData = s.hostData := rfl
@[simp] theorem State.setImemWord_turns (s : State) (i : Nat) (v : Word) : (s.setImemWord i v).turns = s.turns := rfl

/-! ### State.setF -/

@[simp] theorem State.setF_f (s : State) (r : FReg) (v : Fe) : (s.setF r v).f = s.f.set r.val v := rfl
@[simp] theorem State.setF_sc (s : State) (r : FReg) (v : Fe) : (s.setF r v).sc = s.sc := rfl
@[simp] theorem State.setF_c (s : State) (r : FReg) (v : Fe) : (s.setF r v).c = s.c := rfl
@[simp] theorem State.setF_sg (s : State) (r : FReg) (v : Fe) : (s.setF r v).sg = s.sg := rfl
@[simp] theorem State.setF_pc (s : State) (r : FReg) (v : Fe) : (s.setF r v).pc = s.pc := rfl
@[simp] theorem State.setF_ie (s : State) (r : FReg) (v : Fe) : (s.setF r v).ie = s.ie := rfl
@[simp] theorem State.setF_strict (s : State) (r : FReg) (v : Fe) : (s.setF r v).strict = s.strict := rfl
@[simp] theorem State.setF_busy (s : State) (r : FReg) (v : Fe) : (s.setF r v).busy = s.busy := rfl
@[simp] theorem State.setF_done (s : State) (r : FReg) (v : Fe) : (s.setF r v).done = s.done := rfl
@[simp] theorem State.setF_faulted (s : State) (r : FReg) (v : Fe) : (s.setF r v).faulted = s.faulted := rfl
@[simp] theorem State.setF_hacc (s : State) (r : FReg) (v : Fe) : (s.setF r v).hacc = s.hacc := rfl
@[simp] theorem State.setF_cause (s : State) (r : FReg) (v : Fe) : (s.setF r v).cause = s.cause := rfl
@[simp] theorem State.setF_epc (s : State) (r : FReg) (v : Fe) : (s.setF r v).epc = s.epc := rfl
@[simp] theorem State.setF_pcCsr (s : State) (r : FReg) (v : Fe) : (s.setF r v).pcCsr = s.pcCsr := rfl
@[simp] theorem State.setF_entry (s : State) (r : FReg) (v : Fe) : (s.setF r v).entry = s.entry := rfl
@[simp] theorem State.setF_retired (s : State) (r : FReg) (v : Fe) : (s.setF r v).retired = s.retired := rfl
@[simp] theorem State.setF_imem (s : State) (r : FReg) (v : Fe) : (s.setF r v).imem = s.imem := rfl
@[simp] theorem State.setF_dmem (s : State) (r : FReg) (v : Fe) : (s.setF r v).dmem = s.dmem := rfl
@[simp] theorem State.setF_rngBusy (s : State) (r : FReg) (v : Fe) : (s.setF r v).rngBusy = s.rngBusy := rfl
@[simp] theorem State.setF_powerOn (s : State) (r : FReg) (v : Fe) : (s.setF r v).powerOn = s.powerOn := rfl
@[simp] theorem State.setF_rngAnswers (s : State) (r : FReg) (v : Fe) : (s.setF r v).rngAnswers = s.rngAnswers := rfl
@[simp] theorem State.setF_rngDraws (s : State) (r : FReg) (v : Fe) : (s.setF r v).rngDraws = s.rngDraws := rfl
@[simp] theorem State.setF_busyReads (s : State) (r : FReg) (v : Fe) : (s.setF r v).busyReads = s.busyReads := rfl
@[simp] theorem State.setF_hostData (s : State) (r : FReg) (v : Fe) : (s.setF r v).hostData = s.hostData := rfl
@[simp] theorem State.setF_turns (s : State) (r : FReg) (v : Fe) : (s.setF r v).turns = s.turns := rfl

/-! ### State.setS -/

@[simp] theorem State.setS_f (s : State) (r : SReg) (v : BitVec 256) : (s.setS r v).f = s.f := rfl
@[simp] theorem State.setS_sc (s : State) (r : SReg) (v : BitVec 256) : (s.setS r v).sc = s.sc.set r.val v := rfl
@[simp] theorem State.setS_c (s : State) (r : SReg) (v : BitVec 256) : (s.setS r v).c = s.c := rfl
@[simp] theorem State.setS_sg (s : State) (r : SReg) (v : BitVec 256) : (s.setS r v).sg = s.sg := rfl
@[simp] theorem State.setS_pc (s : State) (r : SReg) (v : BitVec 256) : (s.setS r v).pc = s.pc := rfl
@[simp] theorem State.setS_ie (s : State) (r : SReg) (v : BitVec 256) : (s.setS r v).ie = s.ie := rfl
@[simp] theorem State.setS_strict (s : State) (r : SReg) (v : BitVec 256) : (s.setS r v).strict = s.strict := rfl
@[simp] theorem State.setS_busy (s : State) (r : SReg) (v : BitVec 256) : (s.setS r v).busy = s.busy := rfl
@[simp] theorem State.setS_done (s : State) (r : SReg) (v : BitVec 256) : (s.setS r v).done = s.done := rfl
@[simp] theorem State.setS_faulted (s : State) (r : SReg) (v : BitVec 256) : (s.setS r v).faulted = s.faulted := rfl
@[simp] theorem State.setS_hacc (s : State) (r : SReg) (v : BitVec 256) : (s.setS r v).hacc = s.hacc := rfl
@[simp] theorem State.setS_cause (s : State) (r : SReg) (v : BitVec 256) : (s.setS r v).cause = s.cause := rfl
@[simp] theorem State.setS_epc (s : State) (r : SReg) (v : BitVec 256) : (s.setS r v).epc = s.epc := rfl
@[simp] theorem State.setS_pcCsr (s : State) (r : SReg) (v : BitVec 256) : (s.setS r v).pcCsr = s.pcCsr := rfl
@[simp] theorem State.setS_entry (s : State) (r : SReg) (v : BitVec 256) : (s.setS r v).entry = s.entry := rfl
@[simp] theorem State.setS_retired (s : State) (r : SReg) (v : BitVec 256) : (s.setS r v).retired = s.retired := rfl
@[simp] theorem State.setS_imem (s : State) (r : SReg) (v : BitVec 256) : (s.setS r v).imem = s.imem := rfl
@[simp] theorem State.setS_dmem (s : State) (r : SReg) (v : BitVec 256) : (s.setS r v).dmem = s.dmem := rfl
@[simp] theorem State.setS_rngBusy (s : State) (r : SReg) (v : BitVec 256) : (s.setS r v).rngBusy = s.rngBusy := rfl
@[simp] theorem State.setS_powerOn (s : State) (r : SReg) (v : BitVec 256) : (s.setS r v).powerOn = s.powerOn := rfl
@[simp] theorem State.setS_rngAnswers (s : State) (r : SReg) (v : BitVec 256) : (s.setS r v).rngAnswers = s.rngAnswers := rfl
@[simp] theorem State.setS_rngDraws (s : State) (r : SReg) (v : BitVec 256) : (s.setS r v).rngDraws = s.rngDraws := rfl
@[simp] theorem State.setS_busyReads (s : State) (r : SReg) (v : BitVec 256) : (s.setS r v).busyReads = s.busyReads := rfl
@[simp] theorem State.setS_hostData (s : State) (r : SReg) (v : BitVec 256) : (s.setS r v).hostData = s.hostData := rfl
@[simp] theorem State.setS_turns (s : State) (r : SReg) (v : BitVec 256) : (s.setS r v).turns = s.turns := rfl

/-! ### State.setC -/

@[simp] theorem State.setC_f (s : State) (b : Bool) : (s.setC b).f = s.f := rfl
@[simp] theorem State.setC_sc (s : State) (b : Bool) : (s.setC b).sc = s.sc := rfl
@[simp] theorem State.setC_c (s : State) (b : Bool) : (s.setC b).c = b := rfl
@[simp] theorem State.setC_sg (s : State) (b : Bool) : (s.setC b).sg = s.sg := rfl
@[simp] theorem State.setC_pc (s : State) (b : Bool) : (s.setC b).pc = s.pc := rfl
@[simp] theorem State.setC_ie (s : State) (b : Bool) : (s.setC b).ie = s.ie := rfl
@[simp] theorem State.setC_strict (s : State) (b : Bool) : (s.setC b).strict = s.strict := rfl
@[simp] theorem State.setC_busy (s : State) (b : Bool) : (s.setC b).busy = s.busy := rfl
@[simp] theorem State.setC_done (s : State) (b : Bool) : (s.setC b).done = s.done := rfl
@[simp] theorem State.setC_faulted (s : State) (b : Bool) : (s.setC b).faulted = s.faulted := rfl
@[simp] theorem State.setC_hacc (s : State) (b : Bool) : (s.setC b).hacc = s.hacc := rfl
@[simp] theorem State.setC_cause (s : State) (b : Bool) : (s.setC b).cause = s.cause := rfl
@[simp] theorem State.setC_epc (s : State) (b : Bool) : (s.setC b).epc = s.epc := rfl
@[simp] theorem State.setC_pcCsr (s : State) (b : Bool) : (s.setC b).pcCsr = s.pcCsr := rfl
@[simp] theorem State.setC_entry (s : State) (b : Bool) : (s.setC b).entry = s.entry := rfl
@[simp] theorem State.setC_retired (s : State) (b : Bool) : (s.setC b).retired = s.retired := rfl
@[simp] theorem State.setC_imem (s : State) (b : Bool) : (s.setC b).imem = s.imem := rfl
@[simp] theorem State.setC_dmem (s : State) (b : Bool) : (s.setC b).dmem = s.dmem := rfl
@[simp] theorem State.setC_rngBusy (s : State) (b : Bool) : (s.setC b).rngBusy = s.rngBusy := rfl
@[simp] theorem State.setC_powerOn (s : State) (b : Bool) : (s.setC b).powerOn = s.powerOn := rfl
@[simp] theorem State.setC_rngAnswers (s : State) (b : Bool) : (s.setC b).rngAnswers = s.rngAnswers := rfl
@[simp] theorem State.setC_rngDraws (s : State) (b : Bool) : (s.setC b).rngDraws = s.rngDraws := rfl
@[simp] theorem State.setC_busyReads (s : State) (b : Bool) : (s.setC b).busyReads = s.busyReads := rfl
@[simp] theorem State.setC_hostData (s : State) (b : Bool) : (s.setC b).hostData = s.hostData := rfl
@[simp] theorem State.setC_turns (s : State) (b : Bool) : (s.setC b).turns = s.turns := rfl

/-! ### State.setSG -/

@[simp] theorem State.setSG_f (s : State) (b : Bool) : (s.setSG b).f = s.f := rfl
@[simp] theorem State.setSG_sc (s : State) (b : Bool) : (s.setSG b).sc = s.sc := rfl
@[simp] theorem State.setSG_c (s : State) (b : Bool) : (s.setSG b).c = s.c := rfl
@[simp] theorem State.setSG_sg (s : State) (b : Bool) : (s.setSG b).sg = b := rfl
@[simp] theorem State.setSG_pc (s : State) (b : Bool) : (s.setSG b).pc = s.pc := rfl
@[simp] theorem State.setSG_ie (s : State) (b : Bool) : (s.setSG b).ie = s.ie := rfl
@[simp] theorem State.setSG_strict (s : State) (b : Bool) : (s.setSG b).strict = s.strict := rfl
@[simp] theorem State.setSG_busy (s : State) (b : Bool) : (s.setSG b).busy = s.busy := rfl
@[simp] theorem State.setSG_done (s : State) (b : Bool) : (s.setSG b).done = s.done := rfl
@[simp] theorem State.setSG_faulted (s : State) (b : Bool) : (s.setSG b).faulted = s.faulted := rfl
@[simp] theorem State.setSG_hacc (s : State) (b : Bool) : (s.setSG b).hacc = s.hacc := rfl
@[simp] theorem State.setSG_cause (s : State) (b : Bool) : (s.setSG b).cause = s.cause := rfl
@[simp] theorem State.setSG_epc (s : State) (b : Bool) : (s.setSG b).epc = s.epc := rfl
@[simp] theorem State.setSG_pcCsr (s : State) (b : Bool) : (s.setSG b).pcCsr = s.pcCsr := rfl
@[simp] theorem State.setSG_entry (s : State) (b : Bool) : (s.setSG b).entry = s.entry := rfl
@[simp] theorem State.setSG_retired (s : State) (b : Bool) : (s.setSG b).retired = s.retired := rfl
@[simp] theorem State.setSG_imem (s : State) (b : Bool) : (s.setSG b).imem = s.imem := rfl
@[simp] theorem State.setSG_dmem (s : State) (b : Bool) : (s.setSG b).dmem = s.dmem := rfl
@[simp] theorem State.setSG_rngBusy (s : State) (b : Bool) : (s.setSG b).rngBusy = s.rngBusy := rfl
@[simp] theorem State.setSG_powerOn (s : State) (b : Bool) : (s.setSG b).powerOn = s.powerOn := rfl
@[simp] theorem State.setSG_rngAnswers (s : State) (b : Bool) : (s.setSG b).rngAnswers = s.rngAnswers := rfl
@[simp] theorem State.setSG_rngDraws (s : State) (b : Bool) : (s.setSG b).rngDraws = s.rngDraws := rfl
@[simp] theorem State.setSG_busyReads (s : State) (b : Bool) : (s.setSG b).busyReads = s.busyReads := rfl
@[simp] theorem State.setSG_hostData (s : State) (b : Bool) : (s.setSG b).hostData = s.hostData := rfl
@[simp] theorem State.setSG_turns (s : State) (b : Bool) : (s.setSG b).turns = s.turns := rfl

/-! ### State.count -/

@[simp] theorem State.count_f (s : State) : (s.count).f = s.f := rfl
@[simp] theorem State.count_sc (s : State) : (s.count).sc = s.sc := rfl
@[simp] theorem State.count_c (s : State) : (s.count).c = s.c := rfl
@[simp] theorem State.count_sg (s : State) : (s.count).sg = s.sg := rfl
@[simp] theorem State.count_pc (s : State) : (s.count).pc = s.pc := rfl
@[simp] theorem State.count_ie (s : State) : (s.count).ie = s.ie := rfl
@[simp] theorem State.count_strict (s : State) : (s.count).strict = s.strict := rfl
@[simp] theorem State.count_busy (s : State) : (s.count).busy = s.busy := rfl
@[simp] theorem State.count_done (s : State) : (s.count).done = s.done := rfl
@[simp] theorem State.count_faulted (s : State) : (s.count).faulted = s.faulted := rfl
@[simp] theorem State.count_hacc (s : State) : (s.count).hacc = s.hacc := rfl
@[simp] theorem State.count_cause (s : State) : (s.count).cause = s.cause := rfl
@[simp] theorem State.count_epc (s : State) : (s.count).epc = s.epc := rfl
@[simp] theorem State.count_pcCsr (s : State) : (s.count).pcCsr = s.pcCsr := rfl
@[simp] theorem State.count_entry (s : State) : (s.count).entry = s.entry := rfl
@[simp] theorem State.count_retired (s : State) : (s.count).retired = s.retired + 1 := rfl
@[simp] theorem State.count_imem (s : State) : (s.count).imem = s.imem := rfl
@[simp] theorem State.count_dmem (s : State) : (s.count).dmem = s.dmem := rfl
@[simp] theorem State.count_rngBusy (s : State) : (s.count).rngBusy = s.rngBusy := rfl
@[simp] theorem State.count_powerOn (s : State) : (s.count).powerOn = s.powerOn := rfl
@[simp] theorem State.count_rngAnswers (s : State) : (s.count).rngAnswers = s.rngAnswers := rfl
@[simp] theorem State.count_rngDraws (s : State) : (s.count).rngDraws = s.rngDraws := rfl
@[simp] theorem State.count_busyReads (s : State) : (s.count).busyReads = s.busyReads := rfl
@[simp] theorem State.count_hostData (s : State) : (s.count).hostData = s.hostData := rfl
@[simp] theorem State.count_turns (s : State) : (s.count).turns = s.turns := rfl

/-! ### State.retire -/

@[simp] theorem State.retire_f (s : State) : (s.retire).f = s.f := rfl
@[simp] theorem State.retire_sc (s : State) : (s.retire).sc = s.sc := rfl
@[simp] theorem State.retire_c (s : State) : (s.retire).c = s.c := rfl
@[simp] theorem State.retire_sg (s : State) : (s.retire).sg = s.sg := rfl
@[simp] theorem State.retire_pc (s : State) : (s.retire).pc = s.pc + 1 := rfl
@[simp] theorem State.retire_ie (s : State) : (s.retire).ie = s.ie := rfl
@[simp] theorem State.retire_strict (s : State) : (s.retire).strict = s.strict := rfl
@[simp] theorem State.retire_busy (s : State) : (s.retire).busy = s.busy := rfl
@[simp] theorem State.retire_done (s : State) : (s.retire).done = s.done := rfl
@[simp] theorem State.retire_faulted (s : State) : (s.retire).faulted = s.faulted := rfl
@[simp] theorem State.retire_hacc (s : State) : (s.retire).hacc = s.hacc := rfl
@[simp] theorem State.retire_cause (s : State) : (s.retire).cause = s.cause := rfl
@[simp] theorem State.retire_epc (s : State) : (s.retire).epc = s.epc := rfl
@[simp] theorem State.retire_pcCsr (s : State) : (s.retire).pcCsr = s.pcCsr := rfl
@[simp] theorem State.retire_entry (s : State) : (s.retire).entry = s.entry := rfl
@[simp] theorem State.retire_retired (s : State) : (s.retire).retired = s.retired + 1 := rfl
@[simp] theorem State.retire_imem (s : State) : (s.retire).imem = s.imem := rfl
@[simp] theorem State.retire_dmem (s : State) : (s.retire).dmem = s.dmem := rfl
@[simp] theorem State.retire_rngBusy (s : State) : (s.retire).rngBusy = s.rngBusy := rfl
@[simp] theorem State.retire_powerOn (s : State) : (s.retire).powerOn = s.powerOn := rfl
@[simp] theorem State.retire_rngAnswers (s : State) : (s.retire).rngAnswers = s.rngAnswers := rfl
@[simp] theorem State.retire_rngDraws (s : State) : (s.retire).rngDraws = s.rngDraws := rfl
@[simp] theorem State.retire_busyReads (s : State) : (s.retire).busyReads = s.busyReads := rfl
@[simp] theorem State.retire_hostData (s : State) : (s.retire).hostData = s.hostData := rfl
@[simp] theorem State.retire_turns (s : State) : (s.retire).turns = s.turns := rfl

/-! ### State.zeroize -/

@[simp] theorem State.zeroize_f (s : State) : (s.zeroize).f = Vector.replicate 16 (Fe.ofNat 0) := rfl
@[simp] theorem State.zeroize_sc (s : State) : (s.zeroize).sc = Vector.replicate 4 0 := rfl
@[simp] theorem State.zeroize_c (s : State) : (s.zeroize).c = false := rfl
@[simp] theorem State.zeroize_sg (s : State) : (s.zeroize).sg = false := rfl
@[simp] theorem State.zeroize_pc (s : State) : (s.zeroize).pc = s.pc := rfl
@[simp] theorem State.zeroize_ie (s : State) : (s.zeroize).ie = s.ie := rfl
@[simp] theorem State.zeroize_strict (s : State) : (s.zeroize).strict = s.strict := rfl
@[simp] theorem State.zeroize_busy (s : State) : (s.zeroize).busy = s.busy := rfl
@[simp] theorem State.zeroize_done (s : State) : (s.zeroize).done = s.done := rfl
@[simp] theorem State.zeroize_faulted (s : State) : (s.zeroize).faulted = s.faulted := rfl
@[simp] theorem State.zeroize_hacc (s : State) : (s.zeroize).hacc = s.hacc := rfl
@[simp] theorem State.zeroize_cause (s : State) : (s.zeroize).cause = s.cause := rfl
@[simp] theorem State.zeroize_epc (s : State) : (s.zeroize).epc = s.epc := rfl
@[simp] theorem State.zeroize_pcCsr (s : State) : (s.zeroize).pcCsr = s.pcCsr := rfl
@[simp] theorem State.zeroize_entry (s : State) : (s.zeroize).entry = s.entry := rfl
@[simp] theorem State.zeroize_retired (s : State) : (s.zeroize).retired = s.retired := rfl
@[simp] theorem State.zeroize_imem (s : State) : (s.zeroize).imem = s.imem := rfl
@[simp] theorem State.zeroize_dmem (s : State) : (s.zeroize).dmem = s.dmem := rfl
@[simp] theorem State.zeroize_rngBusy (s : State) : (s.zeroize).rngBusy = s.rngBusy := rfl
@[simp] theorem State.zeroize_powerOn (s : State) : (s.zeroize).powerOn = s.powerOn := rfl
@[simp] theorem State.zeroize_rngAnswers (s : State) : (s.zeroize).rngAnswers = s.rngAnswers := rfl
@[simp] theorem State.zeroize_rngDraws (s : State) : (s.zeroize).rngDraws = s.rngDraws := rfl
@[simp] theorem State.zeroize_busyReads (s : State) : (s.zeroize).busyReads = s.busyReads := rfl
@[simp] theorem State.zeroize_hostData (s : State) : (s.zeroize).hostData = s.hostData := rfl
@[simp] theorem State.zeroize_turns (s : State) : (s.zeroize).turns = s.turns := rfl

/-! ### State.endRun -/

@[simp] theorem State.endRun_f (s : State) (b : Bool) : (s.endRun b).f = Vector.replicate 16 (Fe.ofNat 0) := rfl
@[simp] theorem State.endRun_sc (s : State) (b : Bool) : (s.endRun b).sc = Vector.replicate 4 0 := rfl
@[simp] theorem State.endRun_c (s : State) (b : Bool) : (s.endRun b).c = false := rfl
@[simp] theorem State.endRun_sg (s : State) (b : Bool) : (s.endRun b).sg = false := rfl
@[simp] theorem State.endRun_pc (s : State) (b : Bool) : (s.endRun b).pc = s.pc := rfl
@[simp] theorem State.endRun_ie (s : State) (b : Bool) : (s.endRun b).ie = s.ie := rfl
@[simp] theorem State.endRun_strict (s : State) (b : Bool) : (s.endRun b).strict = s.strict := rfl
@[simp] theorem State.endRun_busy (s : State) (b : Bool) : (s.endRun b).busy = false := rfl
@[simp] theorem State.endRun_done (s : State) (b : Bool) : (s.endRun b).done = true := rfl
@[simp] theorem State.endRun_faulted (s : State) (b : Bool) : (s.endRun b).faulted = b := rfl
@[simp] theorem State.endRun_hacc (s : State) (b : Bool) : (s.endRun b).hacc = s.hacc := rfl
@[simp] theorem State.endRun_cause (s : State) (b : Bool) : (s.endRun b).cause = s.cause := rfl
@[simp] theorem State.endRun_epc (s : State) (b : Bool) : (s.endRun b).epc = s.epc := rfl
@[simp] theorem State.endRun_pcCsr (s : State) (b : Bool) : (s.endRun b).pcCsr = s.pc := rfl
@[simp] theorem State.endRun_entry (s : State) (b : Bool) : (s.endRun b).entry = s.entry := rfl
@[simp] theorem State.endRun_retired (s : State) (b : Bool) : (s.endRun b).retired = s.retired := rfl
@[simp] theorem State.endRun_imem (s : State) (b : Bool) : (s.endRun b).imem = s.imem := rfl
@[simp] theorem State.endRun_dmem (s : State) (b : Bool) : (s.endRun b).dmem = s.dmem := rfl
@[simp] theorem State.endRun_rngBusy (s : State) (b : Bool) : (s.endRun b).rngBusy = s.rngBusy := rfl
@[simp] theorem State.endRun_powerOn (s : State) (b : Bool) : (s.endRun b).powerOn = s.powerOn := rfl
@[simp] theorem State.endRun_rngAnswers (s : State) (b : Bool) : (s.endRun b).rngAnswers = s.rngAnswers := rfl
@[simp] theorem State.endRun_rngDraws (s : State) (b : Bool) : (s.endRun b).rngDraws = s.rngDraws := rfl
@[simp] theorem State.endRun_busyReads (s : State) (b : Bool) : (s.endRun b).busyReads = s.busyReads := rfl
@[simp] theorem State.endRun_hostData (s : State) (b : Bool) : (s.endRun b).hostData = s.hostData := rfl
@[simp] theorem State.endRun_turns (s : State) (b : Bool) : (s.endRun b).turns = s.turns := rfl

/-! ### State.takeTrap -/

@[simp] theorem State.takeTrap_f (s : State) (k : Cause) : (s.takeTrap k).f = Vector.replicate 16 (Fe.ofNat 0) := rfl
@[simp] theorem State.takeTrap_sc (s : State) (k : Cause) : (s.takeTrap k).sc = Vector.replicate 4 0 := rfl
@[simp] theorem State.takeTrap_c (s : State) (k : Cause) : (s.takeTrap k).c = false := rfl
@[simp] theorem State.takeTrap_sg (s : State) (k : Cause) : (s.takeTrap k).sg = false := rfl
@[simp] theorem State.takeTrap_pc (s : State) (k : Cause) : (s.takeTrap k).pc = s.pc := rfl
@[simp] theorem State.takeTrap_ie (s : State) (k : Cause) : (s.takeTrap k).ie = s.ie := rfl
@[simp] theorem State.takeTrap_strict (s : State) (k : Cause) : (s.takeTrap k).strict = s.strict := rfl
@[simp] theorem State.takeTrap_busy (s : State) (k : Cause) : (s.takeTrap k).busy = false := rfl
@[simp] theorem State.takeTrap_done (s : State) (k : Cause) : (s.takeTrap k).done = true := rfl
@[simp] theorem State.takeTrap_faulted (s : State) (k : Cause) : (s.takeTrap k).faulted = true := rfl
@[simp] theorem State.takeTrap_hacc (s : State) (k : Cause) : (s.takeTrap k).hacc = s.hacc := rfl
@[simp] theorem State.takeTrap_cause (s : State) (k : Cause) : (s.takeTrap k).cause = k := rfl
@[simp] theorem State.takeTrap_epc (s : State) (k : Cause) : (s.takeTrap k).epc = s.pc := rfl
@[simp] theorem State.takeTrap_pcCsr (s : State) (k : Cause) : (s.takeTrap k).pcCsr = s.pc := rfl
@[simp] theorem State.takeTrap_entry (s : State) (k : Cause) : (s.takeTrap k).entry = s.entry := rfl
@[simp] theorem State.takeTrap_retired (s : State) (k : Cause) : (s.takeTrap k).retired = s.retired := rfl
@[simp] theorem State.takeTrap_imem (s : State) (k : Cause) : (s.takeTrap k).imem = s.imem := rfl
@[simp] theorem State.takeTrap_dmem (s : State) (k : Cause) : (s.takeTrap k).dmem = s.dmem := rfl
@[simp] theorem State.takeTrap_rngBusy (s : State) (k : Cause) : (s.takeTrap k).rngBusy = s.rngBusy := rfl
@[simp] theorem State.takeTrap_powerOn (s : State) (k : Cause) : (s.takeTrap k).powerOn = s.powerOn := rfl
@[simp] theorem State.takeTrap_rngAnswers (s : State) (k : Cause) : (s.takeTrap k).rngAnswers = s.rngAnswers := rfl
@[simp] theorem State.takeTrap_rngDraws (s : State) (k : Cause) : (s.takeTrap k).rngDraws = s.rngDraws := rfl
@[simp] theorem State.takeTrap_busyReads (s : State) (k : Cause) : (s.takeTrap k).busyReads = s.busyReads := rfl
@[simp] theorem State.takeTrap_hostData (s : State) (k : Cause) : (s.takeTrap k).hostData = s.hostData := rfl
@[simp] theorem State.takeTrap_turns (s : State) (k : Cause) : (s.takeTrap k).turns = s.turns := rfl

/-! ### State.acceptStart -/

@[simp] theorem State.acceptStart_f (s : State) : (s.acceptStart).f = Vector.replicate 16 (Fe.ofNat 0) := rfl
@[simp] theorem State.acceptStart_sc (s : State) : (s.acceptStart).sc = Vector.replicate 4 0 := rfl
@[simp] theorem State.acceptStart_c (s : State) : (s.acceptStart).c = false := rfl
@[simp] theorem State.acceptStart_sg (s : State) : (s.acceptStart).sg = false := rfl
@[simp] theorem State.acceptStart_pc (s : State) : (s.acceptStart).pc = s.entry.setWidth 14 := rfl
@[simp] theorem State.acceptStart_ie (s : State) : (s.acceptStart).ie = s.ie := rfl
@[simp] theorem State.acceptStart_strict (s : State) : (s.acceptStart).strict = s.strict := rfl
@[simp] theorem State.acceptStart_busy (s : State) : (s.acceptStart).busy = true := rfl
@[simp] theorem State.acceptStart_done (s : State) : (s.acceptStart).done = false := rfl
@[simp] theorem State.acceptStart_faulted (s : State) : (s.acceptStart).faulted = false := rfl
@[simp] theorem State.acceptStart_hacc (s : State) : (s.acceptStart).hacc = s.hacc := rfl
@[simp] theorem State.acceptStart_cause (s : State) : (s.acceptStart).cause = .none := rfl
@[simp] theorem State.acceptStart_epc (s : State) : (s.acceptStart).epc = 0 := rfl
@[simp] theorem State.acceptStart_pcCsr (s : State) : (s.acceptStart).pcCsr = s.pcCsr := rfl
@[simp] theorem State.acceptStart_entry (s : State) : (s.acceptStart).entry = s.entry := rfl
@[simp] theorem State.acceptStart_retired (s : State) : (s.acceptStart).retired = 0 := rfl
@[simp] theorem State.acceptStart_imem (s : State) : (s.acceptStart).imem = s.imem := rfl
@[simp] theorem State.acceptStart_dmem (s : State) : (s.acceptStart).dmem = s.dmem := rfl
@[simp] theorem State.acceptStart_rngBusy (s : State) : (s.acceptStart).rngBusy = s.rngBusy := rfl
@[simp] theorem State.acceptStart_powerOn (s : State) : (s.acceptStart).powerOn = s.powerOn := rfl
@[simp] theorem State.acceptStart_rngAnswers (s : State) : (s.acceptStart).rngAnswers = s.rngAnswers := rfl
@[simp] theorem State.acceptStart_rngDraws (s : State) : (s.acceptStart).rngDraws = s.rngDraws := rfl
@[simp] theorem State.acceptStart_busyReads (s : State) : (s.acceptStart).busyReads = s.busyReads := rfl
@[simp] theorem State.acceptStart_hostData (s : State) : (s.acceptStart).hostData = s.hostData := rfl
@[simp] theorem State.acceptStart_turns (s : State) : (s.acceptStart).turns = s.turns := rfl

/-! ### State.closeRequest -/

@[simp] theorem State.closeRequest_f (s : State) : (s.closeRequest).f = s.f := rfl
@[simp] theorem State.closeRequest_sc (s : State) : (s.closeRequest).sc = s.sc := rfl
@[simp] theorem State.closeRequest_c (s : State) : (s.closeRequest).c = s.c := rfl
@[simp] theorem State.closeRequest_sg (s : State) : (s.closeRequest).sg = s.sg := rfl
@[simp] theorem State.closeRequest_pc (s : State) : (s.closeRequest).pc = s.pc := rfl
@[simp] theorem State.closeRequest_ie (s : State) : (s.closeRequest).ie = s.ie := rfl
@[simp] theorem State.closeRequest_strict (s : State) : (s.closeRequest).strict = s.strict := rfl
@[simp] theorem State.closeRequest_busy (s : State) : (s.closeRequest).busy = s.busy := rfl
@[simp] theorem State.closeRequest_done (s : State) : (s.closeRequest).done = s.done := rfl
@[simp] theorem State.closeRequest_faulted (s : State) : (s.closeRequest).faulted = s.faulted := rfl
@[simp] theorem State.closeRequest_hacc (s : State) : (s.closeRequest).hacc = s.hacc := rfl
@[simp] theorem State.closeRequest_cause (s : State) : (s.closeRequest).cause = s.cause := rfl
@[simp] theorem State.closeRequest_epc (s : State) : (s.closeRequest).epc = s.epc := rfl
@[simp] theorem State.closeRequest_pcCsr (s : State) : (s.closeRequest).pcCsr = s.pcCsr := rfl
@[simp] theorem State.closeRequest_entry (s : State) : (s.closeRequest).entry = s.entry := rfl
@[simp] theorem State.closeRequest_retired (s : State) : (s.closeRequest).retired = s.retired := rfl
@[simp] theorem State.closeRequest_imem (s : State) : (s.closeRequest).imem = s.imem := rfl
@[simp] theorem State.closeRequest_dmem (s : State) : (s.closeRequest).dmem = s.dmem := rfl
@[simp] theorem State.closeRequest_rngBusy (s : State) : (s.closeRequest).rngBusy = false := rfl
@[simp] theorem State.closeRequest_powerOn (s : State) : (s.closeRequest).powerOn = s.powerOn := rfl
@[simp] theorem State.closeRequest_rngAnswers (s : State) : (s.closeRequest).rngAnswers = s.rngAnswers.tail := rfl
@[simp] theorem State.closeRequest_rngDraws (s : State) : (s.closeRequest).rngDraws = s.rngDraws + 1 := rfl
@[simp] theorem State.closeRequest_busyReads (s : State) : (s.closeRequest).busyReads = s.busyReads := rfl
@[simp] theorem State.closeRequest_hostData (s : State) : (s.closeRequest).hostData = s.hostData := rfl
@[simp] theorem State.closeRequest_turns (s : State) : (s.closeRequest).turns = s.turns := rfl

/-! ### State.awaitRng -/

@[simp] theorem State.awaitRng_f (s : State) : (s.awaitRng).f = s.f := rfl
@[simp] theorem State.awaitRng_sc (s : State) : (s.awaitRng).sc = s.sc := rfl
@[simp] theorem State.awaitRng_c (s : State) : (s.awaitRng).c = s.c := rfl
@[simp] theorem State.awaitRng_sg (s : State) : (s.awaitRng).sg = s.sg := rfl
@[simp] theorem State.awaitRng_pc (s : State) : (s.awaitRng).pc = s.pc := rfl
@[simp] theorem State.awaitRng_ie (s : State) : (s.awaitRng).ie = s.ie := rfl
@[simp] theorem State.awaitRng_strict (s : State) : (s.awaitRng).strict = s.strict := rfl
@[simp] theorem State.awaitRng_busy (s : State) : (s.awaitRng).busy = s.busy := rfl
@[simp] theorem State.awaitRng_done (s : State) : (s.awaitRng).done = s.done := rfl
@[simp] theorem State.awaitRng_faulted (s : State) : (s.awaitRng).faulted = s.faulted := rfl
@[simp] theorem State.awaitRng_hacc (s : State) : (s.awaitRng).hacc = s.hacc := rfl
@[simp] theorem State.awaitRng_cause (s : State) : (s.awaitRng).cause = s.cause := rfl
@[simp] theorem State.awaitRng_epc (s : State) : (s.awaitRng).epc = s.epc := rfl
@[simp] theorem State.awaitRng_pcCsr (s : State) : (s.awaitRng).pcCsr = s.pcCsr := rfl
@[simp] theorem State.awaitRng_entry (s : State) : (s.awaitRng).entry = s.entry := rfl
@[simp] theorem State.awaitRng_retired (s : State) : (s.awaitRng).retired = s.retired := rfl
@[simp] theorem State.awaitRng_imem (s : State) : (s.awaitRng).imem = s.imem := rfl
@[simp] theorem State.awaitRng_dmem (s : State) : (s.awaitRng).dmem = s.dmem := rfl
@[simp] theorem State.awaitRng_rngBusy (s : State) : (s.awaitRng).rngBusy = true := rfl
@[simp] theorem State.awaitRng_powerOn (s : State) : (s.awaitRng).powerOn = s.powerOn := rfl
@[simp] theorem State.awaitRng_rngAnswers (s : State) : (s.awaitRng).rngAnswers = s.rngAnswers := rfl
@[simp] theorem State.awaitRng_rngDraws (s : State) : (s.awaitRng).rngDraws = s.rngDraws := rfl
@[simp] theorem State.awaitRng_busyReads (s : State) : (s.awaitRng).busyReads = s.busyReads := rfl
@[simp] theorem State.awaitRng_hostData (s : State) : (s.awaitRng).hostData = s.hostData := rfl
@[simp] theorem State.awaitRng_turns (s : State) : (s.awaitRng).turns = s.turns := rfl

/-! ### State.hostRead -/

@[simp] theorem State.hostRead_f (s : State) (ha : BitVec 16) : (s.hostRead ha).f = s.f := rfl
@[simp] theorem State.hostRead_sc (s : State) (ha : BitVec 16) : (s.hostRead ha).sc = s.sc := rfl
@[simp] theorem State.hostRead_c (s : State) (ha : BitVec 16) : (s.hostRead ha).c = s.c := rfl
@[simp] theorem State.hostRead_sg (s : State) (ha : BitVec 16) : (s.hostRead ha).sg = s.sg := rfl
@[simp] theorem State.hostRead_pc (s : State) (ha : BitVec 16) : (s.hostRead ha).pc = s.pc := rfl
@[simp] theorem State.hostRead_ie (s : State) (ha : BitVec 16) : (s.hostRead ha).ie = s.ie := rfl
@[simp] theorem State.hostRead_strict (s : State) (ha : BitVec 16) : (s.hostRead ha).strict = s.strict := rfl
@[simp] theorem State.hostRead_busy (s : State) (ha : BitVec 16) : (s.hostRead ha).busy = s.busy := rfl
@[simp] theorem State.hostRead_done (s : State) (ha : BitVec 16) : (s.hostRead ha).done = s.done := rfl
@[simp] theorem State.hostRead_faulted (s : State) (ha : BitVec 16) : (s.hostRead ha).faulted = s.faulted := rfl
@[simp] theorem State.hostRead_hacc (s : State) (ha : BitVec 16) : (s.hostRead ha).hacc = (s.hacc || s.memoryConflict ha) := rfl
@[simp] theorem State.hostRead_cause (s : State) (ha : BitVec 16) : (s.hostRead ha).cause = s.cause := rfl
@[simp] theorem State.hostRead_epc (s : State) (ha : BitVec 16) : (s.hostRead ha).epc = s.epc := rfl
@[simp] theorem State.hostRead_pcCsr (s : State) (ha : BitVec 16) : (s.hostRead ha).pcCsr = s.pcCsr := rfl
@[simp] theorem State.hostRead_entry (s : State) (ha : BitVec 16) : (s.hostRead ha).entry = s.entry := rfl
@[simp] theorem State.hostRead_retired (s : State) (ha : BitVec 16) : (s.hostRead ha).retired = s.retired := rfl
@[simp] theorem State.hostRead_imem (s : State) (ha : BitVec 16) : (s.hostRead ha).imem = s.imem := rfl
@[simp] theorem State.hostRead_dmem (s : State) (ha : BitVec 16) : (s.hostRead ha).dmem = s.dmem := rfl
@[simp] theorem State.hostRead_rngBusy (s : State) (ha : BitVec 16) : (s.hostRead ha).rngBusy = s.rngBusy := rfl
@[simp] theorem State.hostRead_powerOn (s : State) (ha : BitVec 16) : (s.hostRead ha).powerOn = s.powerOn := rfl
@[simp] theorem State.hostRead_rngAnswers (s : State) (ha : BitVec 16) : (s.hostRead ha).rngAnswers = s.rngAnswers := rfl
@[simp] theorem State.hostRead_rngDraws (s : State) (ha : BitVec 16) : (s.hostRead ha).rngDraws = s.rngDraws := rfl
@[simp] theorem State.hostRead_busyReads (s : State) (ha : BitVec 16) : (s.hostRead ha).busyReads = if s.drawsOnRead ha then s.busyReads + 1 else s.busyReads := rfl
@[simp] theorem State.hostRead_hostData (s : State) (ha : BitVec 16) : (s.hostRead ha).hostData = s.readValue ha := rfl
@[simp] theorem State.hostRead_turns (s : State) (ha : BitVec 16) : (s.hostRead ha).turns = s.turns := rfl

/-! ### State.writeStatus -/

@[simp] theorem State.writeStatus_f (s : State) (w : Word) : (s.writeStatus w).f = s.f := rfl
@[simp] theorem State.writeStatus_sc (s : State) (w : Word) : (s.writeStatus w).sc = s.sc := rfl
@[simp] theorem State.writeStatus_c (s : State) (w : Word) : (s.writeStatus w).c = s.c := rfl
@[simp] theorem State.writeStatus_sg (s : State) (w : Word) : (s.writeStatus w).sg = s.sg := rfl
@[simp] theorem State.writeStatus_pc (s : State) (w : Word) : (s.writeStatus w).pc = s.pc := rfl
@[simp] theorem State.writeStatus_ie (s : State) (w : Word) : (s.writeStatus w).ie = s.ie := rfl
@[simp] theorem State.writeStatus_strict (s : State) (w : Word) : (s.writeStatus w).strict = s.strict := rfl
@[simp] theorem State.writeStatus_busy (s : State) (w : Word) : (s.writeStatus w).busy = s.busy := rfl
@[simp] theorem State.writeStatus_done (s : State) (w : Word) : (s.writeStatus w).done = (s.done && !w.getLsbD 1) := rfl
@[simp] theorem State.writeStatus_faulted (s : State) (w : Word) : (s.writeStatus w).faulted = s.faulted := rfl
@[simp] theorem State.writeStatus_hacc (s : State) (w : Word) : (s.writeStatus w).hacc = (s.hacc && !w.getLsbD 3) := rfl
@[simp] theorem State.writeStatus_cause (s : State) (w : Word) : (s.writeStatus w).cause = s.cause := rfl
@[simp] theorem State.writeStatus_epc (s : State) (w : Word) : (s.writeStatus w).epc = s.epc := rfl
@[simp] theorem State.writeStatus_pcCsr (s : State) (w : Word) : (s.writeStatus w).pcCsr = s.pcCsr := rfl
@[simp] theorem State.writeStatus_entry (s : State) (w : Word) : (s.writeStatus w).entry = s.entry := rfl
@[simp] theorem State.writeStatus_retired (s : State) (w : Word) : (s.writeStatus w).retired = s.retired := rfl
@[simp] theorem State.writeStatus_imem (s : State) (w : Word) : (s.writeStatus w).imem = s.imem := rfl
@[simp] theorem State.writeStatus_dmem (s : State) (w : Word) : (s.writeStatus w).dmem = s.dmem := rfl
@[simp] theorem State.writeStatus_rngBusy (s : State) (w : Word) : (s.writeStatus w).rngBusy = s.rngBusy := rfl
@[simp] theorem State.writeStatus_powerOn (s : State) (w : Word) : (s.writeStatus w).powerOn = s.powerOn := rfl
@[simp] theorem State.writeStatus_rngAnswers (s : State) (w : Word) : (s.writeStatus w).rngAnswers = s.rngAnswers := rfl
@[simp] theorem State.writeStatus_rngDraws (s : State) (w : Word) : (s.writeStatus w).rngDraws = s.rngDraws := rfl
@[simp] theorem State.writeStatus_busyReads (s : State) (w : Word) : (s.writeStatus w).busyReads = s.busyReads := rfl
@[simp] theorem State.writeStatus_hostData (s : State) (w : Word) : (s.writeStatus w).hostData = s.hostData := rfl
@[simp] theorem State.writeStatus_turns (s : State) (w : Word) : (s.writeStatus w).turns = s.turns := rfl

/-! ### State.popTurn -/

@[simp] theorem State.popTurn_f (s : State) : (s.popTurn).f = s.f := rfl
@[simp] theorem State.popTurn_sc (s : State) : (s.popTurn).sc = s.sc := rfl
@[simp] theorem State.popTurn_c (s : State) : (s.popTurn).c = s.c := rfl
@[simp] theorem State.popTurn_sg (s : State) : (s.popTurn).sg = s.sg := rfl
@[simp] theorem State.popTurn_pc (s : State) : (s.popTurn).pc = s.pc := rfl
@[simp] theorem State.popTurn_ie (s : State) : (s.popTurn).ie = s.ie := rfl
@[simp] theorem State.popTurn_strict (s : State) : (s.popTurn).strict = s.strict := rfl
@[simp] theorem State.popTurn_busy (s : State) : (s.popTurn).busy = s.busy := rfl
@[simp] theorem State.popTurn_done (s : State) : (s.popTurn).done = s.done := rfl
@[simp] theorem State.popTurn_faulted (s : State) : (s.popTurn).faulted = s.faulted := rfl
@[simp] theorem State.popTurn_hacc (s : State) : (s.popTurn).hacc = s.hacc := rfl
@[simp] theorem State.popTurn_cause (s : State) : (s.popTurn).cause = s.cause := rfl
@[simp] theorem State.popTurn_epc (s : State) : (s.popTurn).epc = s.epc := rfl
@[simp] theorem State.popTurn_pcCsr (s : State) : (s.popTurn).pcCsr = s.pcCsr := rfl
@[simp] theorem State.popTurn_entry (s : State) : (s.popTurn).entry = s.entry := rfl
@[simp] theorem State.popTurn_retired (s : State) : (s.popTurn).retired = s.retired := rfl
@[simp] theorem State.popTurn_imem (s : State) : (s.popTurn).imem = s.imem := rfl
@[simp] theorem State.popTurn_dmem (s : State) : (s.popTurn).dmem = s.dmem := rfl
@[simp] theorem State.popTurn_rngBusy (s : State) : (s.popTurn).rngBusy = s.rngBusy := rfl
@[simp] theorem State.popTurn_powerOn (s : State) : (s.popTurn).powerOn = s.powerOn := rfl
@[simp] theorem State.popTurn_rngAnswers (s : State) : (s.popTurn).rngAnswers = s.rngAnswers := rfl
@[simp] theorem State.popTurn_rngDraws (s : State) : (s.popTurn).rngDraws = s.rngDraws := rfl
@[simp] theorem State.popTurn_busyReads (s : State) : (s.popTurn).busyReads = s.busyReads := rfl
@[simp] theorem State.popTurn_hostData (s : State) : (s.popTurn).hostData = s.hostData := rfl
@[simp] theorem State.popTurn_turns (s : State) : (s.popTurn).turns = s.turns.tail := rfl

/-! ### State.memWrite: only DMEM is written -/

@[simp] theorem State.memWrite_f (s : State) (a n v : Nat) : (s.memWrite a n v).f = s.f := by
  induction n generalizing s a v with
  | zero => rfl
  | succ n ih => exact ih _ _ _
@[simp] theorem State.memWrite_sc (s : State) (a n v : Nat) : (s.memWrite a n v).sc = s.sc := by
  induction n generalizing s a v with
  | zero => rfl
  | succ n ih => exact ih _ _ _
@[simp] theorem State.memWrite_c (s : State) (a n v : Nat) : (s.memWrite a n v).c = s.c := by
  induction n generalizing s a v with
  | zero => rfl
  | succ n ih => exact ih _ _ _
@[simp] theorem State.memWrite_sg (s : State) (a n v : Nat) : (s.memWrite a n v).sg = s.sg := by
  induction n generalizing s a v with
  | zero => rfl
  | succ n ih => exact ih _ _ _
@[simp] theorem State.memWrite_pc (s : State) (a n v : Nat) : (s.memWrite a n v).pc = s.pc := by
  induction n generalizing s a v with
  | zero => rfl
  | succ n ih => exact ih _ _ _
@[simp] theorem State.memWrite_ie (s : State) (a n v : Nat) : (s.memWrite a n v).ie = s.ie := by
  induction n generalizing s a v with
  | zero => rfl
  | succ n ih => exact ih _ _ _
@[simp] theorem State.memWrite_strict (s : State) (a n v : Nat) : (s.memWrite a n v).strict = s.strict := by
  induction n generalizing s a v with
  | zero => rfl
  | succ n ih => exact ih _ _ _
@[simp] theorem State.memWrite_busy (s : State) (a n v : Nat) : (s.memWrite a n v).busy = s.busy := by
  induction n generalizing s a v with
  | zero => rfl
  | succ n ih => exact ih _ _ _
@[simp] theorem State.memWrite_done (s : State) (a n v : Nat) : (s.memWrite a n v).done = s.done := by
  induction n generalizing s a v with
  | zero => rfl
  | succ n ih => exact ih _ _ _
@[simp] theorem State.memWrite_faulted (s : State) (a n v : Nat) : (s.memWrite a n v).faulted = s.faulted := by
  induction n generalizing s a v with
  | zero => rfl
  | succ n ih => exact ih _ _ _
@[simp] theorem State.memWrite_hacc (s : State) (a n v : Nat) : (s.memWrite a n v).hacc = s.hacc := by
  induction n generalizing s a v with
  | zero => rfl
  | succ n ih => exact ih _ _ _
@[simp] theorem State.memWrite_cause (s : State) (a n v : Nat) : (s.memWrite a n v).cause = s.cause := by
  induction n generalizing s a v with
  | zero => rfl
  | succ n ih => exact ih _ _ _
@[simp] theorem State.memWrite_epc (s : State) (a n v : Nat) : (s.memWrite a n v).epc = s.epc := by
  induction n generalizing s a v with
  | zero => rfl
  | succ n ih => exact ih _ _ _
@[simp] theorem State.memWrite_pcCsr (s : State) (a n v : Nat) : (s.memWrite a n v).pcCsr = s.pcCsr := by
  induction n generalizing s a v with
  | zero => rfl
  | succ n ih => exact ih _ _ _
@[simp] theorem State.memWrite_entry (s : State) (a n v : Nat) : (s.memWrite a n v).entry = s.entry := by
  induction n generalizing s a v with
  | zero => rfl
  | succ n ih => exact ih _ _ _
@[simp] theorem State.memWrite_retired (s : State) (a n v : Nat) : (s.memWrite a n v).retired = s.retired := by
  induction n generalizing s a v with
  | zero => rfl
  | succ n ih => exact ih _ _ _
@[simp] theorem State.memWrite_imem (s : State) (a n v : Nat) : (s.memWrite a n v).imem = s.imem := by
  induction n generalizing s a v with
  | zero => rfl
  | succ n ih => exact ih _ _ _
@[simp] theorem State.memWrite_rngBusy (s : State) (a n v : Nat) : (s.memWrite a n v).rngBusy = s.rngBusy := by
  induction n generalizing s a v with
  | zero => rfl
  | succ n ih => exact ih _ _ _
@[simp] theorem State.memWrite_powerOn (s : State) (a n v : Nat) : (s.memWrite a n v).powerOn = s.powerOn := by
  induction n generalizing s a v with
  | zero => rfl
  | succ n ih => exact ih _ _ _
@[simp] theorem State.memWrite_rngAnswers (s : State) (a n v : Nat) : (s.memWrite a n v).rngAnswers = s.rngAnswers := by
  induction n generalizing s a v with
  | zero => rfl
  | succ n ih => exact ih _ _ _
@[simp] theorem State.memWrite_rngDraws (s : State) (a n v : Nat) : (s.memWrite a n v).rngDraws = s.rngDraws := by
  induction n generalizing s a v with
  | zero => rfl
  | succ n ih => exact ih _ _ _
@[simp] theorem State.memWrite_busyReads (s : State) (a n v : Nat) : (s.memWrite a n v).busyReads = s.busyReads := by
  induction n generalizing s a v with
  | zero => rfl
  | succ n ih => exact ih _ _ _
@[simp] theorem State.memWrite_hostData (s : State) (a n v : Nat) : (s.memWrite a n v).hostData = s.hostData := by
  induction n generalizing s a v with
  | zero => rfl
  | succ n ih => exact ih _ _ _
@[simp] theorem State.memWrite_turns (s : State) (a n v : Nat) : (s.memWrite a n v).turns = s.turns := by
  induction n generalizing s a v with
  | zero => rfl
  | succ n ih => exact ih _ _ _

/-! ### State.assertReset: everything is at its reset value but the memories and the model's own fields -/

@[simp] theorem State.assertReset_f (s : State) (cut : BitVec 32) : (s.assertReset cut).f = State.reset.f := rfl
@[simp] theorem State.assertReset_sc (s : State) (cut : BitVec 32) : (s.assertReset cut).sc = State.reset.sc := rfl
@[simp] theorem State.assertReset_c (s : State) (cut : BitVec 32) : (s.assertReset cut).c = State.reset.c := rfl
@[simp] theorem State.assertReset_sg (s : State) (cut : BitVec 32) : (s.assertReset cut).sg = State.reset.sg := rfl
@[simp] theorem State.assertReset_pc (s : State) (cut : BitVec 32) : (s.assertReset cut).pc = State.reset.pc := rfl
@[simp] theorem State.assertReset_ie (s : State) (cut : BitVec 32) : (s.assertReset cut).ie = State.reset.ie := rfl
@[simp] theorem State.assertReset_strict (s : State) (cut : BitVec 32) : (s.assertReset cut).strict = State.reset.strict := rfl
@[simp] theorem State.assertReset_busy (s : State) (cut : BitVec 32) : (s.assertReset cut).busy = State.reset.busy := rfl
@[simp] theorem State.assertReset_done (s : State) (cut : BitVec 32) : (s.assertReset cut).done = State.reset.done := rfl
@[simp] theorem State.assertReset_faulted (s : State) (cut : BitVec 32) : (s.assertReset cut).faulted = State.reset.faulted := rfl
@[simp] theorem State.assertReset_hacc (s : State) (cut : BitVec 32) : (s.assertReset cut).hacc = State.reset.hacc := rfl
@[simp] theorem State.assertReset_cause (s : State) (cut : BitVec 32) : (s.assertReset cut).cause = State.reset.cause := rfl
@[simp] theorem State.assertReset_epc (s : State) (cut : BitVec 32) : (s.assertReset cut).epc = State.reset.epc := rfl
@[simp] theorem State.assertReset_pcCsr (s : State) (cut : BitVec 32) : (s.assertReset cut).pcCsr = State.reset.pcCsr := rfl
@[simp] theorem State.assertReset_entry (s : State) (cut : BitVec 32) : (s.assertReset cut).entry = State.reset.entry := rfl
@[simp] theorem State.assertReset_retired (s : State) (cut : BitVec 32) : (s.assertReset cut).retired = State.reset.retired := rfl
@[simp] theorem State.assertReset_imem (s : State) (cut : BitVec 32) : (s.assertReset cut).imem = s.imem := rfl
@[simp] theorem State.assertReset_dmem (s : State) (cut : BitVec 32) : (s.assertReset cut).dmem = (s.cutStore cut).dmem := rfl
@[simp] theorem State.assertReset_rngBusy (s : State) (cut : BitVec 32) : (s.assertReset cut).rngBusy = State.reset.rngBusy := rfl
@[simp] theorem State.assertReset_powerOn (s : State) (cut : BitVec 32) : (s.assertReset cut).powerOn = s.powerOn := rfl
@[simp] theorem State.assertReset_rngAnswers (s : State) (cut : BitVec 32) : (s.assertReset cut).rngAnswers = s.dropRequest.rngAnswers := rfl
@[simp] theorem State.assertReset_rngDraws (s : State) (cut : BitVec 32) : (s.assertReset cut).rngDraws = s.dropRequest.rngDraws := rfl
@[simp] theorem State.assertReset_busyReads (s : State) (cut : BitVec 32) : (s.assertReset cut).busyReads = s.busyReads := rfl
@[simp] theorem State.assertReset_hostData (s : State) (cut : BitVec 32) : (s.assertReset cut).hostData = s.hostData := rfl
@[simp] theorem State.assertReset_turns (s : State) (cut : BitVec 32) : (s.assertReset cut).turns = s.turns := rfl

end Sys2Proof.Machine
end

