-- ==== Sys2Proof/Laws/Memory.lean ====
section
/-! SUPPORT. The memories: a read after a write, what a write leaves alone, and that every operation keeps the canonical form. -/

namespace Sys2Proof.Machine

@[simp] theorem Memory.get?_set {w : Nat} (m : Memory w) (a b : Nat) (v : BitVec w) :
    Memory.get? (Memory.set m a v) b = if b = a then some v else Memory.get? m b := by
  induction m with
  | nil => simp [Memory.set, Memory.get?]
  | cons p m ih =>
    obtain ⟨k, u⟩ := p
    simp only [Memory.set]
    split
    · simp [Memory.get?]
    · split
      · subst_vars; simp only [Memory.get?]; split <;> simp_all
      · simp only [Memory.get?, ih]
        split <;> simp_all
        omega

theorem Memory.wfFrom_set {w size : Nat} {m : Memory w} {lo a : Nat} (v : BitVec w)
    (h : Memory.wfFrom size lo m = true) (hlo : lo ≤ a) (ha : a < size) :
    Memory.wfFrom size lo (Memory.set m a v) = true := by
  induction m generalizing lo with
  | nil => simp [Memory.set, Memory.wfFrom, hlo, ha]
  | cons p m ih =>
    obtain ⟨k, u⟩ := p
    simp only [Memory.wfFrom, Bool.and_eq_true, decide_eq_true_eq] at h
    obtain ⟨⟨h1, h2⟩, h3⟩ := h
    simp only [Memory.set]
    split
    · simp [Memory.wfFrom, hlo, ha, h2, h3]; omega
    · split
      · subst_vars; simp [Memory.wfFrom, hlo, ha, h3]
      · simp [Memory.wfFrom, h1, h2, ih h3 (by omega)]

/-- A write inside the memory keeps its canonical form. -/
theorem Memory.wf_set {w size : Nat} {m : Memory w} {a : Nat} (v : BitVec w)
    (h : Memory.wf size m = true) (ha : a < size) : Memory.wf size (Memory.set m a v) = true :=
  Memory.wfFrom_set v h (Nat.zero_le a) ha

/-- An address below the lower bound of a canonical list is not listed. -/
theorem Memory.get?_below {w size : Nat} {m : Memory w} {lo a : Nat}
    (h : Memory.wfFrom size lo m = true) (ha : a < lo) : Memory.get? m a = none := by
  induction m generalizing lo with
  | nil => rfl
  | cons p m ih =>
    obtain ⟨k, u⟩ := p
    simp only [Memory.wfFrom, Bool.and_eq_true, decide_eq_true_eq] at h
    simp only [Memory.get?]
    rw [if_neg (by omega), ih h.2 (by omega)]

@[simp] theorem State.dmemByte_setByte (s : State) (a b : Nat) (v : Byte) :
    (s.setByte a v).dmemByte b = if b = a then v else s.dmemByte b := by
  simp only [State.dmemByte, State.setByte_dmem, State.setByte_powerOn]
  show (Memory.get? (w := 8) (Memory.set s.dmem a v) b).getD _ = _
  rw [Memory.get?_set]
  split <;> rfl

@[simp] theorem State.imemWord_setImemWord (s : State) (i j : Nat) (v : Word) :
    (s.setImemWord i v).imemWord j = if j = i then v else s.imemWord j := by
  simp only [State.imemWord, State.setImemWord_imem, State.setImemWord_powerOn, Memory.get?_set]
  split <;> rfl

/-- A slot write leaves every byte outside it alone. -/
theorem State.dmemByte_memWrite_outside (s : State) (a n v b : Nat) (h : b < a ∨ a + n ≤ b) :
    (s.memWrite a n v).dmemByte b = s.dmemByte b := by
  induction n generalizing s a v with
  | zero => rfl
  | succ n ih =>
    rw [State.memWrite, ih _ _ _ (by omega), State.dmemByte_setByte, if_neg (by omega)]

/-- Byte `j` of a write is byte `j` of the value, least significant first. -/
theorem State.dmemByte_memWrite_inside (s : State) (a n v j : Nat) (h : j < n) :
    (s.memWrite a n v).dmemByte (a + j) = BitVec.ofNat 8 (v / 256 ^ j) := by
  induction n generalizing s a v j with
  | zero => omega
  | succ n ih =>
    rw [State.memWrite]
    match j with
    | 0 => rw [State.dmemByte_memWrite_outside _ _ _ _ _ (by omega)]; simp
    | j + 1 =>
      have := ih (s.setByte a (BitVec.ofNat 8 v)) (a + 1) (v / 256) j (by omega)
      rw [show a + (j + 1) = a + 1 + j by omega, this, Nat.div_div_eq_div_mul, Nat.pow_succ']

theorem State.memRead_lt (s : State) (a n : Nat) : s.memRead a n < 256 ^ n := by
  induction n generalizing a with
  | zero => simp [State.memRead]
  | succ n ih =>
    have := ih (a + 1)
    have hb := (s.dmemByte a).isLt
    simp only [State.memRead, Nat.pow_succ']
    omega

/-- What a read of `n` bytes gives depends on those bytes alone. -/
theorem State.memRead_congr {s t : State} {a n : Nat}
    (h : ∀ b, a ≤ b → b < a + n → t.dmemByte b = s.dmemByte b) : t.memRead a n = s.memRead a n := by
  induction n generalizing a with
  | zero => rfl
  | succ n ih =>
    simp only [State.memRead]
    rw [h a (by omega) (by omega), ih fun b h1 h2 => h b (by omega) (by omega)]

/-- A read of what was written gives the value, as far as the bytes reach. -/
theorem State.memRead_memWrite (s : State) (a n v : Nat) :
    (s.memWrite a n v).memRead a n = v % 256 ^ n := by
  induction n generalizing s a v with
  | zero => simp [State.memRead, Nat.mod_one]
  | succ n ih =>
    rw [State.memRead, State.memWrite, ih, State.dmemByte_memWrite_outside _ _ _ _ _ (by omega)]
    have hmod : v % (256 * 256 ^ n) = v % 256 + 256 * (v / 256 % 256 ^ n) := Nat.mod_mul
    simp only [State.dmemByte_setByte, if_true, BitVec.toNat_ofNat, Nat.pow_succ']
    exact hmod.symm

/-- A write inside DMEM keeps its canonical form. -/
theorem State.memWrite_wf {s : State} {a n : Nat} (v : Nat) (h : Memory.wf dmemBytes s.dmem = true)
    (ha : a + n ≤ dmemBytes) : Memory.wf dmemBytes (s.memWrite a n v).dmem = true := by
  induction n generalizing s a v with
  | zero => exact h
  | succ n ih =>
    exact ih _ (Memory.wf_set _ h (by omega)) (by omega)

/-- A store that a reset cuts keeps the canonical form too. -/
theorem State.memWriteCut_wf {s : State} {a n : Nat} (cut : BitVec 32) (j v : Nat)
    (h : Memory.wf dmemBytes s.dmem = true) (ha : a + n ≤ dmemBytes) :
    Memory.wf dmemBytes (s.memWriteCut cut a n j v).dmem = true := by
  induction n generalizing s a j v with
  | zero => exact h
  | succ n ih =>
    rw [State.memWriteCut]
    refine ih _ _ ?_ (by omega)
    split
    · exact Memory.wf_set _ h (by omega)
    · exact h

theorem slotOffset_le (k : Slot) : slotOffset k + 32 ≤ dmemBytes := by
  have := k.isLt
  simp only [slotOffset, dmemBytes]
  omega

/-- A cut store leaves every byte outside its range alone. -/
theorem State.dmemByte_memWriteCut_outside (s : State) (cut : BitVec 32) (a n j v b : Nat) (h : b < a ∨ a + n ≤ b) :
    (s.memWriteCut cut a n j v).dmemByte b = s.dmemByte b := by
  induction n generalizing s a j v with
  | zero => rfl
  | succ n ih =>
    rw [State.memWriteCut, ih _ _ _ _ (by omega)]
    split
    · rw [State.dmemByte_setByte, if_neg (by omega)]
    · rfl

end Sys2Proof.Machine
end

