-- ==== Sys2Proof/Laws/Ops.lean ====
section
/-! SUPPORT. The accessors of registers and memories after each named update, and the spec lemmas of the shared
operations of the run. -/

namespace Sys2Proof.Machine

@[simp] theorem State.readF_setF (s : State) (r q : FReg) (v : Fe) :
    (s.setF r v).readF q = if q = r then v else s.readF q := by
  simp only [State.readF, State.setF_f, Vector.getElem_set]
  by_cases h : r = q
  · simp [h]
  · rw [if_neg (fun e => h (Fin.ext e)), if_neg (fun e => h e.symm)]

@[simp] theorem State.readS_setS (s : State) (r q : SReg) (v : BitVec 256) :
    (s.setS r v).readS q = if q = r then v else s.readS q := by
  simp only [State.readS, State.setS_sc, Vector.getElem_set]
  by_cases h : r = q
  · simp [h]
  · rw [if_neg (fun e => h (Fin.ext e)), if_neg (fun e => h e.symm)]

@[simp] theorem State.readF_setByte (s : State) (a : Nat) (v : Byte) (q : FReg) : (s.setByte a v).readF q = s.readF q := rfl
@[simp] theorem State.readS_setByte (s : State) (a : Nat) (v : Byte) (q : SReg) : (s.setByte a v).readS q = s.readS q := rfl
@[simp] theorem State.imemWord_setByte (s : State) (a : Nat) (v : Byte) (x : Nat) : (s.setByte a v).imemWord x = s.imemWord x := rfl
@[simp] theorem State.readF_setImemWord (s : State) (i : Nat) (v : Word) (q : FReg) : (s.setImemWord i v).readF q = s.readF q := rfl
@[simp] theorem State.readS_setImemWord (s : State) (i : Nat) (v : Word) (q : SReg) : (s.setImemWord i v).readS q = s.readS q := rfl
@[simp] theorem State.dmemByte_setImemWord (s : State) (i : Nat) (v : Word) (x : Nat) : (s.setImemWord i v).dmemByte x = s.dmemByte x := rfl
@[simp] theorem State.readS_setF (s : State) (r : FReg) (v : Fe) (q : SReg) : (s.setF r v).readS q = s.readS q := rfl
@[simp] theorem State.dmemByte_setF (s : State) (r : FReg) (v : Fe) (x : Nat) : (s.setF r v).dmemByte x = s.dmemByte x := rfl
@[simp] theorem State.imemWord_setF (s : State) (r : FReg) (v : Fe) (x : Nat) : (s.setF r v).imemWord x = s.imemWord x := rfl
@[simp] theorem State.readF_setS (s : State) (r : SReg) (v : BitVec 256) (q : FReg) : (s.setS r v).readF q = s.readF q := rfl
@[simp] theorem State.dmemByte_setS (s : State) (r : SReg) (v : BitVec 256) (x : Nat) : (s.setS r v).dmemByte x = s.dmemByte x := rfl
@[simp] theorem State.imemWord_setS (s : State) (r : SReg) (v : BitVec 256) (x : Nat) : (s.setS r v).imemWord x = s.imemWord x := rfl
@[simp] theorem State.readF_setC (s : State) (b : Bool) (q : FReg) : (s.setC b).readF q = s.readF q := rfl
@[simp] theorem State.readS_setC (s : State) (b : Bool) (q : SReg) : (s.setC b).readS q = s.readS q := rfl
@[simp] theorem State.dmemByte_setC (s : State) (b : Bool) (x : Nat) : (s.setC b).dmemByte x = s.dmemByte x := rfl
@[simp] theorem State.imemWord_setC (s : State) (b : Bool) (x : Nat) : (s.setC b).imemWord x = s.imemWord x := rfl
@[simp] theorem State.readF_setSG (s : State) (b : Bool) (q : FReg) : (s.setSG b).readF q = s.readF q := rfl
@[simp] theorem State.readS_setSG (s : State) (b : Bool) (q : SReg) : (s.setSG b).readS q = s.readS q := rfl
@[simp] theorem State.dmemByte_setSG (s : State) (b : Bool) (x : Nat) : (s.setSG b).dmemByte x = s.dmemByte x := rfl
@[simp] theorem State.imemWord_setSG (s : State) (b : Bool) (x : Nat) : (s.setSG b).imemWord x = s.imemWord x := rfl
@[simp] theorem State.readF_count (s : State) (q : FReg) : (s.count).readF q = s.readF q := rfl
@[simp] theorem State.readS_count (s : State) (q : SReg) : (s.count).readS q = s.readS q := rfl
@[simp] theorem State.dmemByte_count (s : State) (x : Nat) : (s.count).dmemByte x = s.dmemByte x := rfl
@[simp] theorem State.imemWord_count (s : State) (x : Nat) : (s.count).imemWord x = s.imemWord x := rfl
@[simp] theorem State.readF_retire (s : State) (q : FReg) : (s.retire).readF q = s.readF q := rfl
@[simp] theorem State.readS_retire (s : State) (q : SReg) : (s.retire).readS q = s.readS q := rfl
@[simp] theorem State.dmemByte_retire (s : State) (x : Nat) : (s.retire).dmemByte x = s.dmemByte x := rfl
@[simp] theorem State.imemWord_retire (s : State) (x : Nat) : (s.retire).imemWord x = s.imemWord x := rfl
@[simp] theorem State.readF_zeroize (s : State) (q : FReg) : (s.zeroize).readF q = feZero := by
  simp [State.readF, feZero]
@[simp] theorem State.readS_zeroize (s : State) (q : SReg) : (s.zeroize).readS q = 0 := by
  simp [State.readS]
@[simp] theorem State.dmemByte_zeroize (s : State) (x : Nat) : (s.zeroize).dmemByte x = s.dmemByte x := rfl
@[simp] theorem State.imemWord_zeroize (s : State) (x : Nat) : (s.zeroize).imemWord x = s.imemWord x := rfl
@[simp] theorem State.readF_endRun (s : State) (b : Bool) (q : FReg) : (s.endRun b).readF q = feZero := by
  simp [State.readF, feZero]
@[simp] theorem State.readS_endRun (s : State) (b : Bool) (q : SReg) : (s.endRun b).readS q = 0 := by
  simp [State.readS]
@[simp] theorem State.dmemByte_endRun (s : State) (b : Bool) (x : Nat) : (s.endRun b).dmemByte x = s.dmemByte x := rfl
@[simp] theorem State.imemWord_endRun (s : State) (b : Bool) (x : Nat) : (s.endRun b).imemWord x = s.imemWord x := rfl
@[simp] theorem State.readF_takeTrap (s : State) (k : Cause) (q : FReg) : (s.takeTrap k).readF q = feZero := by
  simp [State.readF, feZero]
@[simp] theorem State.readS_takeTrap (s : State) (k : Cause) (q : SReg) : (s.takeTrap k).readS q = 0 := by
  simp [State.readS]
@[simp] theorem State.dmemByte_takeTrap (s : State) (k : Cause) (x : Nat) : (s.takeTrap k).dmemByte x = s.dmemByte x := rfl
@[simp] theorem State.imemWord_takeTrap (s : State) (k : Cause) (x : Nat) : (s.takeTrap k).imemWord x = s.imemWord x := rfl
@[simp] theorem State.readF_acceptStart (s : State) (q : FReg) : (s.acceptStart).readF q = feZero := by
  simp [State.readF, feZero]
@[simp] theorem State.readS_acceptStart (s : State) (q : SReg) : (s.acceptStart).readS q = 0 := by
  simp [State.readS]
@[simp] theorem State.dmemByte_acceptStart (s : State) (x : Nat) : (s.acceptStart).dmemByte x = s.dmemByte x := rfl
@[simp] theorem State.imemWord_acceptStart (s : State) (x : Nat) : (s.acceptStart).imemWord x = s.imemWord x := rfl
@[simp] theorem State.readF_closeRequest (s : State) (q : FReg) : (s.closeRequest).readF q = s.readF q := rfl
@[simp] theorem State.readS_closeRequest (s : State) (q : SReg) : (s.closeRequest).readS q = s.readS q := rfl
@[simp] theorem State.dmemByte_closeRequest (s : State) (x : Nat) : (s.closeRequest).dmemByte x = s.dmemByte x := rfl
@[simp] theorem State.imemWord_closeRequest (s : State) (x : Nat) : (s.closeRequest).imemWord x = s.imemWord x := rfl
@[simp] theorem State.readF_awaitRng (s : State) (q : FReg) : (s.awaitRng).readF q = s.readF q := rfl
@[simp] theorem State.readS_awaitRng (s : State) (q : SReg) : (s.awaitRng).readS q = s.readS q := rfl
@[simp] theorem State.dmemByte_awaitRng (s : State) (x : Nat) : (s.awaitRng).dmemByte x = s.dmemByte x := rfl
@[simp] theorem State.imemWord_awaitRng (s : State) (x : Nat) : (s.awaitRng).imemWord x = s.imemWord x := rfl
@[simp] theorem State.readF_hostRead (s : State) (ha : BitVec 16) (q : FReg) : (s.hostRead ha).readF q = s.readF q := rfl
@[simp] theorem State.readS_hostRead (s : State) (ha : BitVec 16) (q : SReg) : (s.hostRead ha).readS q = s.readS q := rfl
@[simp] theorem State.dmemByte_hostRead (s : State) (ha : BitVec 16) (x : Nat) : (s.hostRead ha).dmemByte x = s.dmemByte x := rfl
@[simp] theorem State.imemWord_hostRead (s : State) (ha : BitVec 16) (x : Nat) : (s.hostRead ha).imemWord x = s.imemWord x := rfl
@[simp] theorem State.readF_writeStatus (s : State) (w : Word) (q : FReg) : (s.writeStatus w).readF q = s.readF q := rfl
@[simp] theorem State.readS_writeStatus (s : State) (w : Word) (q : SReg) : (s.writeStatus w).readS q = s.readS q := rfl
@[simp] theorem State.dmemByte_writeStatus (s : State) (w : Word) (x : Nat) : (s.writeStatus w).dmemByte x = s.dmemByte x := rfl
@[simp] theorem State.imemWord_writeStatus (s : State) (w : Word) (x : Nat) : (s.writeStatus w).imemWord x = s.imemWord x := rfl
@[simp] theorem State.readF_popTurn (s : State) (q : FReg) : (s.popTurn).readF q = s.readF q := rfl
@[simp] theorem State.readS_popTurn (s : State) (q : SReg) : (s.popTurn).readS q = s.readS q := rfl
@[simp] theorem State.dmemByte_popTurn (s : State) (x : Nat) : (s.popTurn).dmemByte x = s.dmemByte x := rfl
@[simp] theorem State.imemWord_popTurn (s : State) (x : Nat) : (s.popTurn).imemWord x = s.imemWord x := rfl

@[simp] theorem State.readF_memWrite (s : State) (a n v : Nat) (q : FReg) : (s.memWrite a n v).readF q = s.readF q := by
  simp [State.readF]
@[simp] theorem State.readS_memWrite (s : State) (a n v : Nat) (q : SReg) : (s.memWrite a n v).readS q = s.readS q := by
  simp [State.readS]
@[simp] theorem State.imemWord_memWrite (s : State) (a n v x : Nat) : (s.memWrite a n v).imemWord x = s.imemWord x := by
  simp [State.imemWord]

/-! ### The spec lemmas of the shared operations -/

/-- All that writing one field register and retiring does. -/
theorem retireF_spec (d : FReg) (v : Fe) (s : State) :
    (retireF d v s).readF d = v ∧ WroteOnlyF d s (retireF d v s) := by
  refine ⟨by simp [retireF], ?_⟩
  refine ⟨by simp [Retired, retireF], fun r hr => by simp [retireF, hr], ?_⟩
  simp [retireF, SameScalars, SameFlags, SameMemory, SameControl, SameRng]

/-- All that writing one field register and SG and retiring does (LDE). -/
theorem retireF_setSG_spec (d : FReg) (v : Fe) (b : Bool) (s : State) :
    (retireF d v (s.setSG b)).readF d = v ∧ (retireF d v (s.setSG b)).sg = b ∧
    (retireF d v (s.setSG b)).c = s.c ∧ Retired s (retireF d v (s.setSG b)) ∧
    (∀ r, r ≠ d → (retireF d v (s.setSG b)).readF r = s.readF r) ∧ SameScalars s (retireF d v (s.setSG b)) ∧
    SameMemory s (retireF d v (s.setSG b)) ∧ SameControl s (retireF d v (s.setSG b)) ∧
    SameRng s (retireF d v (s.setSG b)) := by
  refine ⟨by simp [retireF], by simp [retireF], by simp [retireF], by simp [Retired, retireF],
    fun r hr => by simp [retireF, hr], ?_⟩
  simp [retireF, SameScalars, SameMemory, SameControl, SameRng]

/-- All that writing one scalar register and retiring does. -/
theorem retireS_spec (d : SReg) (v : BitVec 256) (s : State) :
    (retireS d v s).readS d = v ∧ WroteOnlyS d s (retireS d v s) ∧ SameRng s (retireS d v s) := by
  refine ⟨by simp [retireS], ?_⟩
  refine ⟨⟨by simp [Retired, retireS], fun r hr => by simp [retireS, hr], ?_⟩, ?_⟩ <;>
    simp [retireS, SameFields, SameFlags, SameMemory, SameControl, SameRng]

/-- All that writing C and retiring does. -/
theorem retireC_spec (b : Bool) (s : State) : (retireC b s).c = b ∧ WroteOnlyC s (retireC b s) := by
  simp [retireC, WroteOnlyC, Retired, SameFields, SameScalars, SameMemory, SameControl, SameRng]

/-- All that writing one slot and retiring does. -/
theorem retireSlot_spec (k : Slot) (v : Nat) (s : State) :
    (retireSlot k v s).slotValue k = v % 2 ^ 256 ∧ WroteOnlySlot k s (retireSlot k v s) := by
  have hread : (retireSlot k v s).slotValue k = (s.memWrite (slotOffset k) 32 v).memRead (slotOffset k) 32 :=
    State.memRead_congr fun b _ _ => by simp [retireSlot]
  refine ⟨by rw [hread, State.memRead_memWrite]; norm_num, ?_⟩
  refine ⟨by simp [Retired, retireSlot], by simp [SameFields, retireSlot], by simp [SameScalars, retireSlot],
    by simp [SameFlags, retireSlot], fun a ha => ?_, by simp [SameControl, retireSlot], by simp [SameRng, retireSlot]⟩
  simpa [retireSlot] using State.dmemByte_memWrite_outside s (slotOffset k) 32 v a ha

/-- A slot write keeps DMEM in canonical form. -/
theorem retireSlot_wf (k : Slot) (v : Nat) {s : State} (h : Memory.wf dmemBytes s.dmem = true) :
    Memory.wf dmemBytes (retireSlot k v s).dmem = true := by
  rw [retireSlot, State.retire_dmem]
  exact State.memWrite_wf v h (slotOffset_le k)

/-- All that the end of a run does. -/
theorem endRun_spec (s : State) (b : Bool) : RunEnded s (s.endRun b) ∧ (s.endRun b).faulted = b := by
  simp [RunEnded, State.Zeroized, SameMemory]

/-- All that taking a trap does. -/
theorem takeTrap_spec (s : State) (k : Cause) : Trapped k s (s.takeTrap k) := by
  simp [Trapped, RunEnded, State.Zeroized, SameMemory]

/-- A trap leaves the RNG port alone. -/
theorem takeTrap_rng (s : State) (k : Cause) : SameRng s (s.takeTrap k) := by
  simp [SameRng]

end Sys2Proof.Machine
end

