-- ==== Sys2Proof/Laws/Codec.lean ====
section
/-! SUPPORT. The value of a slot as the sum of its bytes, the bytes a store writes, and the two cases of the Edwards decode. -/

namespace Sys2Proof.Machine

theorem State.memRead_eq_sum (s : State) (a n : Nat) :
    s.memRead a n = ∑ j ∈ Finset.range n, (s.dmemByte (a + j)).toNat * 2 ^ (8 * j) := by
  induction n generalizing a with
  | zero => rfl
  | succ n ih =>
    rw [State.memRead, ih, Finset.sum_range_succ', Finset.mul_sum, Nat.add_comm]
    congr 1
    · refine Finset.sum_congr rfl fun j _ => ?_
      rw [show 8 * (j + 1) = 8 * j + 8 by ring, Nat.pow_add, show a + 1 + j = a + (j + 1) by ring]
      ring
    · simp

/-- The value of a slot, least significant byte first (R206). -/
theorem State.slotValue_eq_sum (s : State) (k : Slot) :
    s.slotValue k = ∑ j ∈ Finset.range 32, (s.dmemByte (32 * k.val + j)).toNat * 2 ^ (8 * j) :=
  State.memRead_eq_sum s _ _

theorem State.slotValue_lt (s : State) (k : Slot) : s.slotValue k < 2 ^ 256 := by
  rw [show (2 : Nat) ^ 256 = 256 ^ 32 by norm_num]
  exact State.memRead_lt s _ _

/-- Byte `j` of a stored slot. -/
theorem retireSlot_byte (k : Slot) (v : Nat) (s : State) (j : Nat) (h : j < 32) :
    (retireSlot k v s).dmemByte (slotOffset k + j) = BitVec.ofNat 8 (v / 256 ^ j) := by
  rw [retireSlot, State.dmemByte_retire, State.dmemByte_memWrite_inside _ _ _ _ _ h]

/-- A number is its bytes. -/
theorem eq_of_bytes (x y n : Nat) (hx : x < 256 ^ n) (hy : y < 256 ^ n)
    (h : ∀ j, j < n → x / 256 ^ j % 256 = y / 256 ^ j % 256) : x = y := by
  induction n generalizing x y with
  | zero => simp at hx hy; omega
  | succ n ih =>
    have h0 := h 0 (by omega)
    have := ih (x / 256) (y / 256) (by rw [Nat.pow_succ] at hx; omega) (by rw [Nat.pow_succ] at hy; omega) fun j hj => by
      have := h (j + 1) (by omega)
      rwa [Nat.pow_succ', ← Nat.div_div_eq_div_mul, ← Nat.div_div_eq_div_mul] at this
    simp only [pow_zero, Nat.div_one] at h0
    omega

theorem decodeEd_some {strict : Bool} {v : Nat} (h : ¬(v % 2 ^ 255 ≥ P ∧ strict = true)) :
    decodeEd strict v = some (Fe.ofNat (v % 2 ^ 255), v.testBit 255) := by
  rw [decodeEd, if_neg]
  rw [Bool.and_eq_true, decide_eq_true_eq]
  exact fun h' => h ⟨h'.2, h'.1⟩

theorem decodeEd_none {strict : Bool} {v : Nat} (h : v % 2 ^ 255 ≥ P) (h' : strict = true) :
    decodeEd strict v = none := by
  rw [decodeEd, if_pos]
  rw [Bool.and_eq_true, decide_eq_true_eq]
  exact ⟨h', h⟩

theorem testBit_255 {v : Nat} (h : v < 2 ^ 256) : v.testBit 255 = true ↔ 2 ^ 255 ≤ v := by
  rw [Nat.testBit_eq_decide_div_mod_eq]
  simp only [decide_eq_true_eq]
  omega

end Sys2Proof.Machine
end

