-- ==== Sys2Proof/Laws/Exec.lean ====
section
/-! SUPPORT. What `exec` answers for each instruction, over the shared operations, so that no proof unfolds the dispatch
or a meaning. -/

namespace Sys2Proof.Machine

variable (s : State)

theorem exec_halt : exec .halt s = .next (s.count.endRun false) := rfl
theorem exec_nop : exec .nop s = .next s.retire := rfl
theorem exec_add (d a b : FReg) : exec (.add d a b) s = .next (retireF d (fadd (s.readF a) (s.readF b)) s) := rfl
theorem exec_sub (d a b : FReg) : exec (.sub d a b) s = .next (retireF d (fsub (s.readF a) (s.readF b)) s) := rfl
theorem exec_mul (d a b : FReg) : exec (.mul d a b) s = .next (retireF d (fmul (s.readF a) (s.readF b)) s) := rfl
theorem exec_sqr (d a : FReg) : exec (.sqr d a) s = .next (retireF d (fmul (s.readF a) (s.readF a)) s) := rfl
theorem exec_neg (d a : FReg) : exec (.neg d a) s = .next (retireF d (fneg (s.readF a)) s) := rfl
theorem exec_mov (d a : FReg) : exec (.mov d a) s = .next (retireF d (s.readF a) s) := rfl
theorem exec_ldc (d : FReg) (k : RomIx) : exec (.ldc d k) s = .next (retireF d (rom k) s) := rfl
theorem exec_inv (d a : FReg) : exec (.inv d a) s = .next (retireF d (finv (s.readF a)) s) := rfl

theorem exec_sqrt_some {d a : FReg} {r : Fe} (h : fsqrt (s.readF a) = some r) :
    exec (.sqrt d a) s = .next (retireF d r s) := by
  rw [exec, execSqrt, h]
theorem exec_sqrt_none {d a : FReg} (h : fsqrt (s.readF a) = none) :
    exec (.sqrt d a) s = .next (s.takeTrap .notASquare) := by
  rw [exec, execSqrt, h]

theorem exec_csel (d a b : FReg) :
    exec (.csel d a b) s = .next (retireF d (select s.c (s.readF a) (s.readF b)) s) := rfl

theorem exec_cswap (a b : FReg) : exec (.cswap a b) s = .next (retireF b (select s.c (s.readF a) (s.readF b))
    (s.setF a (select s.c (s.readF b) (s.readF a)))) := rfl

theorem exec_ceq (a b : FReg) : exec (.ceq a b) s = .next (retireC (equalFlag (s.readF a) (s.readF b)) s) := rfl
theorem exec_cbitf (a : FReg) (n : BitIx) : exec (.cbitf a n) s = .next (retireC (fieldBit (s.readF a) n) s) := rfl
theorem exec_cbits (a : SReg) (n : BitIx) : exec (.cbits a n) s = .next (retireC (scalarBit (s.readS a) n) s) := rfl
theorem exec_cflg (m : CflgMode) : exec (.cflg m) s = .next (retireC (flagOfMode m s.c s.sg) s) := rfl

theorem exec_m2e_some {d a : FReg} {r : Fe} (h : montToEd (s.readF a) = some r) :
    exec (.m2e d a) s = .next (retireF d r s) := by
  rw [exec, execM2e, h]
theorem exec_m2e_none {d a : FReg} (h : montToEd (s.readF a) = none) :
    exec (.m2e d a) s = .next (s.takeTrap .invalidPoint) := by
  rw [exec, execM2e, h]

theorem exec_e2m_some {d a : FReg} {r : Fe} (h : edToMont (s.readF a) = some r) :
    exec (.e2m d a) s = .next (retireF d r s) := by
  rw [exec, execE2m, h]
theorem exec_e2m_none {d a : FReg} (h : edToMont (s.readF a) = none) :
    exec (.e2m d a) s = .next (s.takeTrap .invalidPoint) := by
  rw [exec, execE2m, h]

theorem exec_clamp (d a : SReg) : exec (.clamp d a) s = .next (retireS d (clampBits (s.readS a)) s) := rfl

theorem exec_rnd_ok {d : SReg} {b : BitVec 256} (h : s.rngAnswer = .ok b) :
    exec (.rnd d) s = .next (retireS d b s.closeRequest) := by
  rw [exec, execRnd, h]
theorem exec_rnd_fail {d : SReg} (h : s.rngAnswer = .fail) :
    exec (.rnd d) s = .next (s.closeRequest.takeTrap .rngFailure) := by
  rw [exec, execRnd, h]
theorem exec_rnd_silent {d : SReg} (h : s.rngAnswer = .silent) : exec (.rnd d) s = .next s.awaitRng := by
  rw [exec, execRnd, h]

theorem exec_ldu (d : FReg) (k : Slot) : exec (.ldu d k) s = .next (retireF d (decodeU (s.slotValue k)) s) := rfl

theorem exec_lde_some {d : FReg} {k : Slot} {y : Fe} {sign : Bool} (h : decodeEd s.strict (s.slotValue k) = some (y, sign)) :
    exec (.lde d k) s = .next (retireF d y (s.setSG sign)) := by
  rw [exec, execLde, h]
theorem exec_lde_none {d : FReg} {k : Slot} (h : decodeEd s.strict (s.slotValue k) = none) :
    exec (.lde d k) s = .next (s.takeTrap .invalidEncoding) := by
  rw [exec, execLde, h]

theorem exec_lds (d : SReg) (k : Slot) :
    exec (.lds d k) s = .next (retireS d (BitVec.ofNat 256 (s.slotValue k)) s) := rfl

theorem exec_stf (k : Slot) (r : FReg) : exec (.stf k r) s = .next (retireSlot k (s.readF r).val s) := rfl
theorem exec_sts (k : Slot) (r : SReg) : exec (.sts k r) s = .next (retireSlot k (s.readS r).toNat s) := rfl

/-- Every instruction answers a next state in every state. -/
theorem exec_next (i : Instr) : ∃ t, exec i s = .next t := by
  cases i <;> exact ⟨_, rfl⟩

end Sys2Proof.Machine
end

