-- ==== Sys2Proof/Laws/Cycle.lean ====
section
/-! SUPPORT. The fields that a host access changes during a run are read by no instruction, so neither the sequencer's cycle
nor the run's final count depends on them (R112, R121, R217); and what a host access and a cycle do during a run. -/

namespace Sys2Proof.Machine

/-- The fields a host access or a turn changes during a run, overwritten. -/
def State.withHostSide (s : State) (ie hacc : Bool) (busyReads : Nat) (hostData : Word) (turns : List Turn) : State :=
  { s with ie := ie, hacc := hacc, busyReads := busyReads, hostData := hostData, turns := turns }

section

variable (s : State) (ie hacc : Bool) (n : Nat) (w : Word) (ts : List Turn)

theorem State.memWrite_withHostSide (a k v : Nat) :
    (s.withHostSide ie hacc n w ts).memWrite a k v = (s.memWrite a k v).withHostSide ie hacc n w ts := by
  induction k generalizing s a v with
  | zero => rfl
  | succ k ih => exact ih (s.setByte a (BitVec.ofNat 8 v)) (a + 1) (v / 256)

theorem State.memRead_withHostSide (a k : Nat) :
    (s.withHostSide ie hacc n w ts).memRead a k = s.memRead a k :=
  State.memRead_congr fun _ _ _ => rfl

theorem retireSlot_withHostSide (k : Slot) (v : Nat) :
    retireSlot k v (s.withHostSide ie hacc n w ts) = (retireSlot k v s).withHostSide ie hacc n w ts := by
  rw [retireSlot, retireSlot, State.memWrite_withHostSide]
  generalize s.memWrite (slotOffset k) 32 v = u; rfl

/-- An instruction answers the same state up to those fields. -/
theorem exec_withHostSide {i : Instr} {s t : State} (h : exec i s = .next t) :
    exec i (s.withHostSide ie hacc n w ts) = .next (t.withHostSide ie hacc n w ts) := by
  have hv (k : Slot) : (s.withHostSide ie hacc n w ts).slotValue k = s.slotValue k := State.memRead_withHostSide ..
  cases i
  case sqrt d a =>
    cases hr : fsqrt (s.readF a) with
    | none =>
      rw [exec_sqrt_none s hr, Host.Outcome.next.injEq] at h
      rw [exec_sqrt_none (s.withHostSide ie hacc n w ts) hr, ← h]; rfl
    | some r =>
      rw [exec_sqrt_some s hr, Host.Outcome.next.injEq] at h
      rw [exec_sqrt_some (s.withHostSide ie hacc n w ts) hr, ← h]; rfl
  case m2e d a =>
    cases hr : montToEd (s.readF a) with
    | none =>
      rw [exec_m2e_none s hr, Host.Outcome.next.injEq] at h
      rw [exec_m2e_none (s.withHostSide ie hacc n w ts) hr, ← h]; rfl
    | some r =>
      rw [exec_m2e_some s hr, Host.Outcome.next.injEq] at h
      rw [exec_m2e_some (s.withHostSide ie hacc n w ts) hr, ← h]; rfl
  case e2m d a =>
    cases hr : edToMont (s.readF a) with
    | none =>
      rw [exec_e2m_none s hr, Host.Outcome.next.injEq] at h
      rw [exec_e2m_none (s.withHostSide ie hacc n w ts) hr, ← h]; rfl
    | some r =>
      rw [exec_e2m_some s hr, Host.Outcome.next.injEq] at h
      rw [exec_e2m_some (s.withHostSide ie hacc n w ts) hr, ← h]; rfl
  case lde d k =>
    cases hr : decodeEd s.strict (s.slotValue k) with
    | none =>
      rw [exec_lde_none s hr, Host.Outcome.next.injEq] at h
      rw [exec_lde_none (s.withHostSide ie hacc n w ts) ((congrArg _ (hv k)).trans hr), ← h]; rfl
    | some p =>
      obtain ⟨y, b⟩ := p
      rw [exec_lde_some s hr, Host.Outcome.next.injEq] at h
      rw [exec_lde_some (s.withHostSide ie hacc n w ts) ((congrArg _ (hv k)).trans hr), ← h]; rfl
  case rnd d =>
    cases hr : s.rngAnswer with
    | ok b =>
      rw [exec_rnd_ok s hr, Host.Outcome.next.injEq] at h
      rw [exec_rnd_ok (s.withHostSide ie hacc n w ts) hr, ← h]; rfl
    | fail =>
      rw [exec_rnd_fail s hr, Host.Outcome.next.injEq] at h
      rw [exec_rnd_fail (s.withHostSide ie hacc n w ts) hr, ← h]; rfl
    | silent =>
      rw [exec_rnd_silent s hr, Host.Outcome.next.injEq] at h
      rw [exec_rnd_silent (s.withHostSide ie hacc n w ts) hr, ← h]; rfl
  case ldu d k =>
    rw [exec_ldu, Host.Outcome.next.injEq] at h
    rw [exec_ldu, hv, ← h]
    generalize decodeU (s.slotValue k) = v; rfl
  case lds d k =>
    rw [exec_lds, Host.Outcome.next.injEq] at h
    rw [exec_lds, hv, ← h]
    generalize BitVec.ofNat 256 (s.slotValue k) = v; rfl
  case stf k r =>
    rw [exec_stf, Host.Outcome.next.injEq] at h
    rw [exec_stf, ← h]
    exact congrArg Host.Outcome.next (retireSlot_withHostSide s ie hacc n w ts k (s.readF r).val)
  case sts k r =>
    rw [exec_sts, Host.Outcome.next.injEq] at h
    rw [exec_sts, ← h]
    exact congrArg Host.Outcome.next (retireSlot_withHostSide s ie hacc n w ts k (s.readS r).toNat)
  all_goals
    injection h with h
    rw [← h]; rfl

/-- So does the sequencer's cycle. -/
theorem seqStep_withHostSide {s t : State} (h : seqStep s = .next t) :
    seqStep (s.withHostSide ie hacc n w ts) = .next (t.withHostSide ie hacc n w ts) := by
  unfold seqStep at h ⊢
  have hb : (s.withHostSide ie hacc n w ts).busy = s.busy := rfl
  have hp : (s.withHostSide ie hacc n w ts).pc = s.pc := rfl
  have hw : (s.withHostSide ie hacc n w ts).imemWord s.pc.toNat = s.imemWord s.pc.toNat := rfl
  simp only [hb, hp, hw]
  split at h
  · rename_i h1
    rw [if_pos h1]
    split at h
    · rename_i h2
      rw [if_pos h2]; injection h with h; rw [← h]; rfl
    · rename_i h2
      rw [if_neg h2]
      split at h
      · rename_i h3
        rw [if_pos h3]
        split at h
        · exact exec_withHostSide ie hacc n w ts h
        · injection h with h; rw [← h]; rfl
      · cases h
  · rename_i h1
    rw [if_neg h1]; injection h with h; rw [← h]

/-- A cycle that stops does so whatever those fields are. -/
theorem seqStep_stops_withHostSide {s : State} (h : ∀ t, seqStep s ≠ .next t) (t : State) :
    seqStep (s.withHostSide ie hacc n w ts) ≠ .next t := fun h' =>
  h _ (seqStep_withHostSide (s := s.withHostSide ie hacc n w ts) s.ie s.hacc s.busyReads s.hostData s.turns h')

/-- The run comes to rest in the same state up to those fields. -/
theorem runOut_withHostSide (k : Nat) (s : State) :
    runOut k (s.withHostSide ie hacc n w ts) = (runOut k s).withHostSide ie hacc n w ts := by
  induction k generalizing s with
  | zero => rfl
  | succ k ih =>
    cases h : seqStep s with
    | next t =>
      simp only [runOut, h, seqStep_withHostSide ie hacc n w ts h]
      show (if t.pc = s.pc then _ else _) = State.withHostSide (if t.pc = s.pc then _ else _) _ _ _ _ _
      split
      · rfl
      · exact ih t
    | fault r =>
      have hs := seqStep_stops_withHostSide ie hacc n w ts (s := s) (by simp [h])
      simp only [runOut, h]
      split
      · rename_i hn; exact absurd hn (hs _)
      · rfl
      · rfl
    | refused r =>
      have hs := seqStep_stops_withHostSide ie hacc n w ts (s := s) (by simp [h])
      simp only [runOut, h]
      split
      · rename_i hn; exact absurd hn (hs _)
      · rfl
      · rfl

/-- The run's final count does not depend on them. -/
@[simp] theorem finalCount_withHostSide : (s.withHostSide ie hacc n w ts).finalCount = s.finalCount := by
  rw [State.finalCount, runOut_withHostSide]; rfl

end

@[simp] theorem finalCount_popTurn (s : State) : s.popTurn.finalCount = s.finalCount :=
  finalCount_withHostSide s s.ie s.hacc s.busyReads s.hostData s.turns.tail

/-- During a run a host access writes those fields alone, and DONE, which it only clears (R114, R122, R126, R217). -/
theorem hostStep_busy {s t : State} (h : s.busy = true) {a : HostAccess} (ht : s.hostStep a = t) :
    t = { s.withHostSide t.ie t.hacc t.busyReads t.hostData s.turns with done := t.done } ∧
      (s.done = false → t.done = false) := by
  subst ht
  cases a with
  | read ha => exact ⟨rfl, id⟩
  | write ha w =>
    simp only [State.hostStep, State.hostWrite]
    cases hostTarget ha with
    | csr r =>
      cases r with
      | ctrl =>
        simp only [State.csrWrite, State.writeCtrl, h]
        exact ⟨by simp [State.withHostSide, h], id⟩
      | status => exact ⟨rfl, fun hd => by simp [State.csrWrite, State.writeStatus, hd]⟩
      | entry =>
        simp only [State.csrWrite, State.writeEntry, h]
        exact ⟨by simp [State.withHostSide, h], id⟩
      | _ => exact ⟨rfl, id⟩
    | dmem a => simp only [h]; exact ⟨by simp [State.withHostSide, h], id⟩
    | imem a => simp only [h]; exact ⟨by simp [State.withHostSide, h], id⟩
    | unmapped => exact ⟨rfl, id⟩

/-- What an instruction does to pc and BUSY: one further and the run goes on, or pc stays and the run ends, or it is an RND
that gets no answer. -/
theorem exec_pc {i : Instr} {s t : State} (h : exec i s = .next t) :
    (t.pc = s.pc + 1 ∧ t.busy = s.busy) ∨ (t.pc = s.pc ∧ t.busy = false) ∨
      (∃ d, i = .rnd d ∧ s.rngAnswer = .silent ∧ t = s.awaitRng) := by
  cases i
  case rnd d =>
    cases hr : s.rngAnswer with
    | ok b => rw [exec_rnd_ok s hr] at h; injection h with h; subst h; exact .inl ⟨rfl, rfl⟩
    | fail => rw [exec_rnd_fail s hr] at h; injection h with h; subst h; exact .inr (.inl ⟨rfl, rfl⟩)
    | silent => rw [exec_rnd_silent s hr] at h; injection h with h; exact .inr (.inr ⟨d, rfl, rfl, h.symm⟩)
  case sqrt d a =>
    cases hr : fsqrt (s.readF a) with
    | none => rw [exec_sqrt_none s hr] at h; injection h with h; subst h; exact .inr (.inl ⟨rfl, rfl⟩)
    | some r => rw [exec_sqrt_some s hr] at h; injection h with h; subst h; exact .inl ⟨rfl, rfl⟩
  case m2e d a =>
    cases hr : montToEd (s.readF a) with
    | none => rw [exec_m2e_none s hr] at h; injection h with h; subst h; exact .inr (.inl ⟨rfl, rfl⟩)
    | some r => rw [exec_m2e_some s hr] at h; injection h with h; subst h; exact .inl ⟨rfl, rfl⟩
  case e2m d a =>
    cases hr : edToMont (s.readF a) with
    | none => rw [exec_e2m_none s hr] at h; injection h with h; subst h; exact .inr (.inl ⟨rfl, rfl⟩)
    | some r => rw [exec_e2m_some s hr] at h; injection h with h; subst h; exact .inl ⟨rfl, rfl⟩
  case lde d k =>
    cases hr : decodeEd s.strict (s.slotValue k) with
    | none => rw [exec_lde_none s hr] at h; injection h with h; subst h; exact .inr (.inl ⟨rfl, rfl⟩)
    | some p =>
      obtain ⟨y, b⟩ := p
      rw [exec_lde_some s hr] at h; injection h with h; subst h; exact .inl ⟨rfl, rfl⟩
  case halt => injection h with h; subst h; exact .inr (.inl ⟨rfl, rfl⟩)
  case stf k r => rw [exec_stf] at h; injection h with h; subst h; exact .inl (by simp [retireSlot])
  case sts k r => rw [exec_sts] at h; injection h with h; subst h; exact .inl (by simp [retireSlot])
  all_goals
    injection h with h
    subst h
    exact .inl ⟨rfl, rfl⟩

/-- A cycle of a run: pc steps on within IMEM, or the run ends at pc, or the cycle awaits the RNG and would do so again. -/
theorem seqStep_busy {s t : State} (hb : s.busy = true) (h : seqStep s = .next t) :
    (t.pc.toNat = s.pc.toNat + 1 ∧ s.pc.toNat < imemWords ∧ t.busy = true) ∨ (t.pc = s.pc ∧ t.busy = false) ∨
      (t = s.awaitRng ∧ seqStep t = .next t) := by
  have h0 := h
  unfold seqStep at h
  rw [if_pos hb] at h
  split at h
  · injection h with h; subst h; exact .inr (.inl ⟨rfl, rfl⟩)
  · rename_i hn
    split at h
    · rename_i hp
      split at h
      · rename_i i hd
        rcases exec_pc h with ⟨hpc, hbu⟩ | he | ⟨d, rfl, hr, rfl⟩
        · refine .inl ⟨?_, hp, hbu.trans hb⟩
          simp only [imemWords] at hp
          rw [hpc, BitVec.toNat_add]
          show (_ + 1) % 2 ^ 14 = _
          omega
        · exact .inr (.inl he)
        · refine .inr (.inr ⟨rfl, ?_⟩)
          have hd' : decode (s.awaitRng.imemWord s.awaitRng.pc.toNat) = .ok (.rnd d) := hd
          unfold seqStep
          rw [if_pos (by exact hb), if_neg (by exact hn), if_pos (by exact hp), hd']
          exact exec_rnd_silent _ hr
      · injection h with h; subst h; exact .inr (.inl ⟨rfl, rfl⟩)
    · cases h

/-- Whatever the free value is, RETIRED reads no more than the final count during a run, and the exact count while idle. -/
theorem retiredRead_busy {s : State} (h : s.busy = true) : s.retiredRead.toNat ≤ s.finalCount := by
  have hlt := Nat.mod_lt (Config.busyRetired s.busyReads) (show s.finalCount + 1 > 0 by omega)
  simp only [State.retiredRead, h, if_true, BitVec.toNat_ofNat]
  exact (Nat.mod_le _ _).trans (by omega)

theorem retiredRead_idle {s : State} (h : s.busy = false) : s.retiredRead = s.retired := by
  simp [State.retiredRead, h]

end Sys2Proof.Machine
end

