-- ==== Sys2Proof/Laws/Decode.lean ====
section
/-! SUPPORT. The fields of a word and the word of the fields are inverse to each other; what a row of the opcode map accepts. -/

namespace Sys2Proof

theorem toNat_append_eq {n m : Nat} (x : BitVec n) (y : BitVec m) :
    (x ++ y).toNat = x.toNat * 2 ^ m + y.toNat := by
  rw [BitVec.toNat_append, ← Nat.shiftLeft_add_eq_or_of_lt y.isLt, Nat.shiftLeft_eq]

/-- A word as a number, from its fields (R301). -/
theorem Fields.toWord_toNat (f : Fields) : f.toWord.toNat =
    f.op.toNat * 2 ^ 26 + f.x.toNat * 2 ^ 22 + f.y.toNat * 2 ^ 18 + f.z.toNat * 2 ^ 14 + f.imm.toNat := by
  simp only [Fields.toWord, toNat_append_eq]
  omega

theorem Fields.ofWord_op_toNat (w : Word) : (Fields.ofWord w).op.toNat = w.toNat / 2 ^ 26 := by
  have := w.isLt
  simp only [Fields.ofWord, BitVec.extractLsb'_toNat, Nat.shiftRight_eq_div_pow]
  omega

theorem Fields.ofWord_x_toNat (w : Word) : (Fields.ofWord w).x.toNat = w.toNat / 2 ^ 22 % 16 := by
  simp [Fields.ofWord, BitVec.extractLsb'_toNat, Nat.shiftRight_eq_div_pow]

theorem Fields.ofWord_y_toNat (w : Word) : (Fields.ofWord w).y.toNat = w.toNat / 2 ^ 18 % 16 := by
  simp [Fields.ofWord, BitVec.extractLsb'_toNat, Nat.shiftRight_eq_div_pow]

theorem Fields.ofWord_z_toNat (w : Word) : (Fields.ofWord w).z.toNat = w.toNat / 2 ^ 14 % 16 := by
  simp [Fields.ofWord, BitVec.extractLsb'_toNat, Nat.shiftRight_eq_div_pow]

theorem Fields.ofWord_imm_toNat (w : Word) : (Fields.ofWord w).imm.toNat = w.toNat % 2 ^ 14 := by
  simp [Fields.ofWord, BitVec.extractLsb'_toNat]

@[simp] theorem Fields.toWord_ofWord (w : Word) : (Fields.ofWord w).toWord = w := by
  apply BitVec.eq_of_toNat_eq
  rw [Fields.toWord_toNat, Fields.ofWord_op_toNat, Fields.ofWord_x_toNat, Fields.ofWord_y_toNat,
    Fields.ofWord_z_toNat, Fields.ofWord_imm_toNat]
  omega

@[simp] theorem Fields.ofWord_toWord (f : Fields) : Fields.ofWord f.toWord = f := by
  have ho := f.op.isLt
  have hx := f.x.isLt
  have hy := f.y.isLt
  have hz := f.z.isLt
  have hi := f.imm.isLt
  have h := Fields.toWord_toNat f
  have e1 := Fields.ofWord_op_toNat f.toWord
  have e2 := Fields.ofWord_x_toNat f.toWord
  have e3 := Fields.ofWord_y_toNat f.toWord
  have e4 := Fields.ofWord_z_toNat f.toWord
  have e5 := Fields.ofWord_imm_toNat f.toWord
  generalize Fields.ofWord f.toWord = g at *
  obtain ⟨op, x, y, z, imm⟩ := f
  obtain ⟨op', x', y', z', imm'⟩ := g
  simp only [Fields.mk.injEq, ← BitVec.toNat_inj] at *
  omega

theorem row_eq_ok {fmt : Format} {f : Fields} {i j : Instr} :
    row fmt f i = .ok j ↔ fmt.accepts f = true ∧ i = j := by
  unfold row
  split <;> simp_all

/-- The bitwise and of two sets of fields. -/
def Fields.and (f g : Fields) : Fields :=
  ⟨f.op &&& g.op, f.x &&& g.x, f.y &&& g.y, f.z &&& g.z, f.imm &&& g.imm⟩

theorem Fields.and_toWord (f g : Fields) : f.toWord &&& g.toWord = (f.and g).toWord := by
  apply BitVec.eq_of_getLsbD_eq
  intro i hi
  simp only [Fields.toWord, Fields.and, BitVec.getLsbD_and, BitVec.getLsbD_append]
  repeat' split
  all_goals rfl

theorem Fields.toWord_inj {f g : Fields} : f.toWord = g.toWord ↔ f = g := by
  constructor
  · intro h
    rw [← Fields.ofWord_toWord f, h, Fields.ofWord_toWord]
  · rintro rfl; rfl

theorem and_zero_x (x : BitVec 4) : x &&& 15 = 0 ↔ x = 0 := by revert x; decide
theorem and_scalarField (x : BitVec 4) : x &&& 12 = 0 ↔ scalarField x = true := by revert x; decide

/-- A mask of the bits from `k` up is zero exactly on the values below `2 ^ k`. -/
theorem and_highMask (k : Nat) (hk : k ≤ 14) (x : BitVec 14) :
    x &&& (BitVec.allOnes 14 <<< k) = 0 ↔ x.toNat < 2 ^ k := by
  constructor
  · intro h
    by_contra hlt
    obtain ⟨j, hj1, hj2⟩ := Nat.exists_ge_and_testBit_of_ge_two_pow (Nat.le_of_not_lt hlt)
    have hj : j < 14 := by
      by_contra hge
      rw [Nat.testBit_lt_two_pow (lt_of_lt_of_le x.isLt (Nat.pow_le_pow_right (by decide) (by omega)))] at hj2
      exact absurd hj2 (by decide)
    have hbit : (x &&& (BitVec.allOnes 14 <<< k)).getLsbD j = true := by
      rw [BitVec.getLsbD_and, BitVec.getLsbD_shiftLeft, BitVec.getLsbD_allOnes]
      have : x.getLsbD j = true := hj2
      simp [this, hj]
      omega
    rw [h] at hbit
    simp at hbit
  · intro h
    apply BitVec.eq_of_getLsbD_eq
    intro j hj
    by_cases hjk : j < k
    · simp [hjk]
    · have : x.getLsbD j = false :=
        Nat.testBit_lt_two_pow (lt_of_lt_of_le h (Nat.pow_le_pow_right (by decide) (by omega)))
      simp [this]

theorem and_imm (x : BitVec 14) : x &&& 0x3FFF = 0 ↔ x = 0 := by
  rw [show (0x3FFF : BitVec 14) = BitVec.allOnes 14 by decide, BitVec.and_allOnes]
theorem and_imm2 (x : BitVec 14) : x &&& 0x3FFC = 0 ↔ x.toNat < 4 := and_highMask 2 (by decide) x
theorem and_imm3 (x : BitVec 14) : x &&& 0x3FF8 = 0 ↔ x.toNat < 8 := and_highMask 3 (by decide) x
theorem and_imm5 (x : BitVec 14) : x &&& 0x3FE0 = 0 ↔ x.toNat < 32 := and_highMask 5 (by decide) x
theorem and_imm8 (x : BitVec 14) : x &&& 0x3F00 = 0 ↔ x.toNat < 256 := and_highMask 8 (by decide) x
theorem and_zero4 (x : BitVec 4) : x &&& 0 = 0 := by revert x; decide
theorem and_op (x : BitVec 6) : x &&& 63 = x := by revert x; decide

/-- The fields of a format's mask (R302). -/
def Format.maskFields : Format → Fields
  | .n    => ⟨63, 15, 15, 15, 0x3FFF⟩
  | .fff  => ⟨63, 0, 0, 0, 0x3FFF⟩
  | .ff   => ⟨63, 0, 0, 15, 0x3FFF⟩
  | .fk   => ⟨63, 0, 15, 15, 0x3FF8⟩
  | .pff  => ⟨63, 15, 0, 0, 0x3FFF⟩
  | .bf   => ⟨63, 15, 0, 15, 0x3F00⟩
  | .bs   => ⟨63, 15, 12, 15, 0x3F00⟩
  | .mode => ⟨63, 15, 15, 15, 0x3FFC⟩
  | .ss   => ⟨63, 12, 12, 15, 0x3FFF⟩
  | .s    => ⟨63, 12, 15, 15, 0x3FFF⟩
  | .fm   => ⟨63, 0, 15, 15, 0x3FE0⟩
  | .sm   => ⟨63, 12, 15, 15, 0x3FE0⟩
  | .mf   => ⟨63, 0, 15, 15, 0x3FE0⟩
  | .ms   => ⟨63, 12, 15, 15, 0x3FE0⟩

theorem Format.mask_eq (fmt : Format) : fmt.mask = fmt.maskFields.toWord := by cases fmt <;> decide

/-- A format's must-be-zero check is the check of its mask's bits (R302). -/
theorem Format.accepts_iff (fmt : Format) (f : Fields) (op : BitVec 6) :
    f.and fmt.maskFields = ⟨op, 0, 0, 0, 0⟩ ↔ f.op = op ∧ fmt.accepts f = true := by
  cases fmt <;>
    simp only [Fields.and, Format.maskFields, Format.accepts, Fields.mk.injEq, and_op, and_zero_x, and_scalarField,
      and_zero4, and_imm, and_imm2, and_imm3, and_imm5, and_imm8, Bool.and_eq_true, beq_iff_eq, decide_eq_true_eq,
      true_and, and_assoc]

/-- Which words agree with an opcode on the bits of a format's mask. -/
theorem word_mask_iff (fmt : Format) (w : Word) (op : BitVec 6) :
    w &&& fmt.mask = op ++ (0 : BitVec 26) ↔ (Fields.ofWord w).op = op ∧ fmt.accepts (Fields.ofWord w) = true := by
  have hm : op ++ (0 : BitVec 26) = (Fields.mk op 0 0 0 0).toWord := by
    apply BitVec.eq_of_toNat_eq
    rw [toNat_append_eq, Fields.toWord_toNat]
    simp
  have hw : w &&& fmt.mask = ((Fields.ofWord w).and fmt.maskFields).toWord := by
    rw [← Fields.and_toWord, Fields.toWord_ofWord, Format.mask_eq]
  rw [hw, hm, Fields.toWord_inj, Format.accepts_iff]

/-- The opcode and the format checks that a decoded instruction's fields passed. -/
theorem decodeFields_ok {f : Fields} {i : Instr} (h : decodeFields f = .ok i) :
    i.opcode = f.op ∧ i.format.accepts f = true := by
  have hop : ∀ n : Nat, f.op.toNat = n → f.op = BitVec.ofNat 6 n := fun n hn => by
    rw [← hn, BitVec.ofNat_toNat, BitVec.setWidth_eq]
  unfold decodeFields at h
  split at h
  all_goals first
    | exact absurd h (by simp)
    | next he =>
      obtain ⟨hacc, rfl⟩ := row_eq_ok.1 h
      exact ⟨(hop _ he).symm, hacc⟩

/-- Decoding an encoded instruction is decoding its fields. -/
theorem decode_encode_fields (i : Instr) : decode (encode i) = decodeFields i.fields := by
  simp [decode, encode]

end Sys2Proof
end

