-- ==== Sys2Proof/Laws/HostPort.lean ====
section
/-! SUPPORT. What a host address reaches, as ranges of the address map, and the step that takes a host access. -/

namespace Sys2Proof.Machine

theorem step_host {s : State} {a : HostAccess} {ts : List Turn} (h : s.turns = .host a :: ts) :
    step s = .next (State.hostStep { s with turns := ts } a) := by
  simp [step, takeTurn, State.turn, State.popTurn, h]

theorem step_reset {s : State} {cut : BitVec 32} {ts : List Turn} (h : s.turns = .reset cut :: ts) :
    step s = .next (State.assertReset { s with turns := ts } cut) := by
  simp [step, takeTurn, State.turn, State.popTurn, h]

theorem step_sequencer {s : State} (h : s.turn = .sequencer) : step s = seqStep s.popTurn := by
  simp [step, takeTurn, h]

theorem hostTarget_csr {ha : BitVec 16} {n : Nat} (hn : n < 8) (h : ha.toNat / 4 = n) : hostTarget ha = .csr (csrAt n) := by
  simp only [hostTarget, h]
  rw [if_pos (by omega), Nat.mul_div_cancel _ (by decide)]

theorem hostTarget_dmem {ha : BitVec 16} (h : 0x4000 ≤ ha.toNat ∧ ha.toNat ≤ 0x43FF) :
    hostTarget ha = .dmem (ha.toNat / 4 * 4 - 0x4000) := by
  unfold hostTarget
  dsimp only
  rw [if_neg (by omega), if_pos (by omega)]

theorem hostTarget_imem {ha : BitVec 16} (h : 0x8000 ≤ ha.toNat) :
    hostTarget ha = .imem ((ha.toNat / 4 * 4 - 0x8000) / 4) := by
  unfold hostTarget
  dsimp only
  rw [if_neg (by omega), if_neg (by omega), if_pos (by omega)]

theorem hostTarget_unmapped {ha : BitVec 16}
    (h : (0x20 ≤ ha.toNat ∧ ha.toNat ≤ 0x3FFF) ∨ (0x4400 ≤ ha.toNat ∧ ha.toNat ≤ 0x7FFF)) :
    hostTarget ha = .unmapped := by
  unfold hostTarget
  dsimp only
  rw [if_neg (by omega), if_neg (by omega), if_neg (by omega)]

theorem hostTarget_dmem_lt {ha : BitVec 16} {a : Nat} (h : hostTarget ha = .dmem a) : a + 4 ≤ dmemBytes := by
  simp only [hostTarget] at h
  split at h
  · cases h
  · split at h
    · injection h with h; simp only [dmemBytes]; omega
    · split at h <;> cases h

theorem hostTarget_imem_lt {ha : BitVec 16} {i : Nat} (h : hostTarget ha = .imem i) : i < imemWords := by
  have hlt := ha.isLt
  by_cases hi : 0x8000 ≤ ha.toNat
  · rw [hostTarget_imem hi] at h
    injection h with h
    simp only [imemWords]
    omega
  · simp only [hostTarget] at h
    split at h
    · cases h
    · split at h
      · cases h
      · rw [if_neg (by omega)] at h
        cases h

end Sys2Proof.Machine
end

