-- ==== Sys2Proof/Laws/PerInstr.lean ====
section
/-! SUPPORT. Per-instruction laws. EncodingRow: the encoding of an instruction agrees with its row of the opcode table, whatever its
operands are (R302, R305). -/

namespace Sys2Proof.Laws.EncodingRow

/-- The encoding of `i` matches its row: its opcode, and zeros in every must-be-zero bit. -/
def Statement (i : Instr) : Prop := encode i &&& i.format.mask = i.matchWord

/-- An instruction's encoding matches its row when its fields carry its opcode and pass its format's checks. -/
theorem of_fields (i : Instr) (hop : i.fields.op = i.opcode) (hwf : i.wellFormed = true) : Statement i := by
  rw [Statement, Instr.matchWord, word_mask_iff, encode, Fields.ofWord_toWord]
  exact ⟨hop, hwf⟩

theorem scalarField_regField (r : SReg) : scalarField (regField r) = true := by revert r; decide

theorem toNat_immField_lt {n m : Nat} (h : n < m) (hm : m ≤ 2 ^ 14) : (immField n).toNat < m := by
  simp only [immField, BitVec.toNat_ofNat]
  omega

theorem halt : Statement .halt := of_fields _ rfl rfl
theorem nop : Statement .nop := of_fields _ rfl rfl
theorem add (fd fa fb : FReg) : Statement (.add fd fa fb) := of_fields _ rfl rfl
theorem sub (fd fa fb : FReg) : Statement (.sub fd fa fb) := of_fields _ rfl rfl
theorem mul (fd fa fb : FReg) : Statement (.mul fd fa fb) := of_fields _ rfl rfl
theorem sqr (fd fa : FReg) : Statement (.sqr fd fa) := of_fields _ rfl rfl
theorem neg (fd fa : FReg) : Statement (.neg fd fa) := of_fields _ rfl rfl
theorem mov (fd fa : FReg) : Statement (.mov fd fa) := of_fields _ rfl rfl
theorem ldc (fd : FReg) (k : RomIx) : Statement (.ldc fd k) :=
  of_fields _ rfl (by
    have h := toNat_immField_lt k.isLt (by decide)
    simp [Instr.wellFormed, Instr.format, Format.accepts, Instr.fields]
    exact decide_eq_true h)
theorem inv (fd fa : FReg) : Statement (.inv fd fa) := of_fields _ rfl rfl
theorem sqrt (fd fa : FReg) : Statement (.sqrt fd fa) := of_fields _ rfl rfl
theorem csel (fd fa fb : FReg) : Statement (.csel fd fa fb) := of_fields _ rfl rfl
theorem cswap (fa fb : FReg) : Statement (.cswap fa fb) := of_fields _ rfl rfl
theorem ceq (fa fb : FReg) : Statement (.ceq fa fb) := of_fields _ rfl rfl
theorem cbitf (fa : FReg) (n : BitIx) : Statement (.cbitf fa n) :=
  of_fields _ rfl (by
    have h := toNat_immField_lt n.isLt (by decide)
    simp [Instr.wellFormed, Instr.format, Format.accepts, Instr.fields]
    exact decide_eq_true h)
theorem cbits (sa : SReg) (n : BitIx) : Statement (.cbits sa n) :=
  of_fields _ rfl (by
    have h := toNat_immField_lt n.isLt (by decide)
    simp [Instr.wellFormed, Instr.format, Format.accepts, Instr.fields, scalarField_regField]
    exact decide_eq_true h)
theorem cflg (mode : CflgMode) : Statement (.cflg mode) := by cases mode <;> exact of_fields _ rfl rfl
theorem m2e (fd fa : FReg) : Statement (.m2e fd fa) := of_fields _ rfl rfl
theorem e2m (fd fa : FReg) : Statement (.e2m fd fa) := of_fields _ rfl rfl
theorem clamp (sd sa : SReg) : Statement (.clamp sd sa) :=
  of_fields _ rfl (by simp [Instr.wellFormed, Instr.format, Format.accepts, Instr.fields, scalarField_regField])
theorem rnd (sd : SReg) : Statement (.rnd sd) :=
  of_fields _ rfl (by simp [Instr.wellFormed, Instr.format, Format.accepts, Instr.fields, scalarField_regField])
theorem ldu (fd : FReg) (slot : Slot) : Statement (.ldu fd slot) :=
  of_fields _ rfl (by
    have h := toNat_immField_lt slot.isLt (by decide)
    simp [Instr.wellFormed, Instr.format, Format.accepts, Instr.fields]
    exact decide_eq_true h)
theorem lde (fd : FReg) (slot : Slot) : Statement (.lde fd slot) :=
  of_fields _ rfl (by
    have h := toNat_immField_lt slot.isLt (by decide)
    simp [Instr.wellFormed, Instr.format, Format.accepts, Instr.fields]
    exact decide_eq_true h)
theorem lds (sd : SReg) (slot : Slot) : Statement (.lds sd slot) :=
  of_fields _ rfl (by
    have h := toNat_immField_lt slot.isLt (by decide)
    simp [Instr.wellFormed, Instr.format, Format.accepts, Instr.fields, scalarField_regField]
    exact decide_eq_true h)
theorem stf (slot : Slot) (fs : FReg) : Statement (.stf slot fs) :=
  of_fields _ rfl (by
    have h := toNat_immField_lt slot.isLt (by decide)
    simp [Instr.wellFormed, Instr.format, Format.accepts, Instr.fields]
    exact decide_eq_true h)
theorem sts (slot : Slot) (ss : SReg) : Statement (.sts slot ss) :=
  of_fields _ rfl (by
    have h := toNat_immField_lt slot.isLt (by decide)
    simp [Instr.wellFormed, Instr.format, Format.accepts, Instr.fields, scalarField_regField]
    exact decide_eq_true h)

end Sys2Proof.Laws.EncodingRow
end

