-- ==== Sys2Proof/Laws/Rows.lean ====
section
/-! SUPPORT. How a row of the opcode table is shown to decode: from its opcode, its format and its operands. -/

namespace Sys2Proof

/-- A row decodes exactly its words when its opcode leads to its format and instruction. -/
theorem rowDecodes_of {fmt : Format} {op : BitVec 6} {g : Word → Instr}
    (hrow : ∀ w, (Fields.ofWord w).op = op → decode w = row fmt (Fields.ofWord w) (g w))
    (hop : ∀ w, (g w).opcode = op) (hfmt : ∀ w, (g w).format = fmt) :
    RowDecodes fmt.mask (op ++ (0 : BitVec 26)) g := by
  intro w
  rw [word_mask_iff]
  constructor
  · rintro ⟨h, hacc⟩
    rw [hrow w h, row_eq_ok]
    exact ⟨hacc, rfl⟩
  · intro h
    obtain ⟨h1, h2⟩ := decodeFields_ok h
    rw [hop] at h1
    rw [hfmt] at h2
    exact ⟨h1.symm, h2⟩

/-! The operands as the statements read them from a word, and as the decoder reads them from its fields. -/

@[simp] theorem fregOf_x (w : Word) : fregOf (Fields.ofWord w).x = wordFX w :=
  Fin.ext (Fields.ofWord_x_toNat w)
@[simp] theorem fregOf_y (w : Word) : fregOf (Fields.ofWord w).y = wordFY w :=
  Fin.ext (Fields.ofWord_y_toNat w)
@[simp] theorem fregOf_z (w : Word) : fregOf (Fields.ofWord w).z = wordFZ w :=
  Fin.ext (Fields.ofWord_z_toNat w)

@[simp] theorem sregOf_x (w : Word) : sregOf (Fields.ofWord w).x = wordSX w := by
  apply Fin.ext
  simp only [sregOf, wordSX, Fields.ofWord_x_toNat]
  omega

@[simp] theorem sregOf_y (w : Word) : sregOf (Fields.ofWord w).y = wordSY w := by
  apply Fin.ext
  simp only [sregOf, wordSY, Fields.ofWord_y_toNat]
  omega

@[simp] theorem romIxOf_imm (w : Word) : romIxOf (Fields.ofWord w).imm = wordK w := by
  apply Fin.ext
  simp only [romIxOf, wordK, Fields.ofWord_imm_toNat]
  omega

@[simp] theorem slotOf_imm (w : Word) : slotOf (Fields.ofWord w).imm = wordSlot w := by
  apply Fin.ext
  simp only [slotOf, wordSlot, Fields.ofWord_imm_toNat]
  omega

@[simp] theorem bitIxOf_imm (w : Word) : bitIxOf (Fields.ofWord w).imm = wordN w := by
  apply Fin.ext
  simp only [bitIxOf, wordN, Fields.ofWord_imm_toNat]
  omega

@[simp] theorem cflgModeOf_imm (w : Word) : cflgModeOf (Fields.ofWord w).imm = wordMode w := by
  have h : (Fields.ofWord w).imm.toNat % 4 = w.toNat % 4 := by rw [Fields.ofWord_imm_toNat]; omega
  have hlt : w.toNat % 4 < 4 := Nat.mod_lt _ (by decide)
  simp only [cflgModeOf, wordMode, h]
  interval_cases w.toNat % 4 <;> rfl

end Sys2Proof
end

