-- ==== Sys2Proof/Laws/SquareRoot.lean ====
section
/-! SUPPORT. The mathematics of INV and SQRT in `ZMod P`: the power P - 2 inverts, and one of the two candidates is a root
of every square (R409, R410). -/

namespace Sys2Proof.Machine

/-- `SQRT_M1` squares to -1 (R15). -/
theorem feZ_sqrtM1_sq : feZ sqrtM1 * feZ sqrtM1 = -1 := by
  have h : fmul sqrtM1 sqrtM1 = fneg feOne := by decide +kernel
  have h' := congrArg feZ h
  simpa using h'

/-- A non-zero element times its power P - 2 is 1. -/
theorem mul_pow_P_sub_two (x : ZMod P) (hx : x ≠ 0) : x * x ^ (P - 2) = 1 := by
  have : Fact (Nat.Prime P) := ⟨Laws.P_prime⟩
  have h := ZMod.pow_card_sub_one_eq_one hx
  rwa [show P - 1 = P - 2 + 1 by decide, pow_succ, mul_comm] at h

/-- The fourth power of the first candidate of a square is the square's square. -/
theorem firstCandidate_pow_four (x y : ZMod P) (hxy : y * y = x) :
    (x ^ ((P + 3) / 8) * x ^ ((P + 3) / 8)) * (x ^ ((P + 3) / 8) * x ^ ((P + 3) / 8)) = x * x := by
  have : Fact (Nat.Prime P) := ⟨Laws.P_prime⟩
  by_cases hy : y = 0
  · have h8 : (P + 3) / 8 ≠ 0 := by decide
    simp [← hxy, hy, h8]
  · have h1 : y ^ (P - 1) = 1 := ZMod.pow_card_sub_one_eq_one hy
    have he : ∀ e, x ^ e = y ^ (2 * e) := fun e => by rw [← hxy, ← pow_two, ← pow_mul]
    have hexp : 2 * ((P + 3) / 8) + 2 * ((P + 3) / 8) + (2 * ((P + 3) / 8) + 2 * ((P + 3) / 8)) = (P - 1) + 4 := by
      decide
    rw [he, ← pow_add, ← pow_add, hexp, pow_add, h1, one_mul, ← hxy]
    ring

/-- Of a square, one of the two candidates is a root. -/
theorem candidate_of_square (x y i : ZMod P) (hxy : y * y = x) (hi : i * i = -1) :
    x ^ ((P + 3) / 8) * x ^ ((P + 3) / 8) = x ∨
      (x ^ ((P + 3) / 8) * i) * (x ^ ((P + 3) / 8) * i) = x := by
  have : Fact (Nat.Prime P) := ⟨Laws.P_prime⟩
  have h := firstCandidate_pow_four x y hxy
  generalize x ^ ((P + 3) / 8) = r at h ⊢
  have hf : (r * r - x) * (r * r + x) = 0 := by linear_combination h
  rcases mul_eq_zero.1 hf with h' | h'
  · exact .inl (sub_eq_zero.1 h')
  · right
    linear_combination (r * r) * hi - h'

/-- Twice a non-zero element is not zero: -1 is not 1 (R409, R553). -/
theorem two_ne_zero_P : (2 : ZMod P) ≠ 0 := by
  have h : fadd feOne feOne ≠ feZero := by decide +kernel
  intro e
  apply h
  rw [← feZ_eq_zero]
  simp only [feZ_fadd, feZ_feOne]
  rw [← e]
  norm_num

end Sys2Proof.Machine
end

