-- ==== Sys2Proof/Machine/Asm.lean ====
section
/-! DEFINITION. Assembly text: how an instruction is written, the pseudo-instructions, and reading a line
(spec/30_encoding.md R310, R311). Spaces, numerals and empty lines where R310 is silent: log entry 19. -/

namespace Sys2Proof.Machine

/-! ### Writing -/

/-- A number in decimal. -/
def decimalText (n : Nat) : List Char := Nat.toDigits 10 n

/-- `f0`..`f15`. -/
def fregText (r : FReg) : List Char := 'f' :: decimalText r.val

/-- `s0`..`s3`. -/
def sregText (r : SReg) : List Char := 's' :: decimalText r.val

/-- `[0]`..`[31]`. -/
def slotText (k : Slot) : List Char := '[' :: decimalText k.val ++ [']']

/-- `0`, `1`, `sg`, `not`. -/
def modeText : CflgMode → List Char
  | .zero => ['0']
  | .one => ['1']
  | .sg => ['s', 'g']
  | .not => ['n', 'o', 't']

/-- The mnemonic (R305). -/
def asmMnemonic : Instr → String
  | .halt => "HALT"
  | .nop => "NOP"
  | .add .. => "ADD"
  | .sub .. => "SUB"
  | .mul .. => "MUL"
  | .sqr .. => "SQR"
  | .neg .. => "NEG"
  | .mov .. => "MOV"
  | .ldc .. => "LDC"
  | .inv .. => "INV"
  | .sqrt .. => "SQRT"
  | .csel .. => "CSEL"
  | .cswap .. => "CSWAP"
  | .ceq .. => "CEQ"
  | .cbitf .. => "CBITF"
  | .cbits .. => "CBITS"
  | .cflg .. => "CFLG"
  | .m2e .. => "M2E"
  | .e2m .. => "E2M"
  | .clamp .. => "CLAMP"
  | .rnd .. => "RND"
  | .ldu .. => "LDU"
  | .lde .. => "LDE"
  | .lds .. => "LDS"
  | .stf .. => "STF"
  | .sts .. => "STS"

/-- The operands, in the order of R310. -/
def asmOperands : Instr → List (List Char)
  | .halt | .nop => []
  | .add d a b | .sub d a b | .mul d a b | .csel d a b => [fregText d, fregText a, fregText b]
  | .sqr d a | .neg d a | .mov d a | .inv d a | .sqrt d a | .m2e d a | .e2m d a => [fregText d, fregText a]
  | .ldc d k => [fregText d, decimalText k.val]
  | .cswap a b | .ceq a b => [fregText a, fregText b]
  | .cbitf a n => [fregText a, decimalText n.val]
  | .cbits a n => [sregText a, decimalText n.val]
  | .cflg m => [modeText m]
  | .clamp d a => [sregText d, sregText a]
  | .rnd d => [sregText d]
  | .ldu d k | .lde d k => [fregText d, slotText k]
  | .lds d k => [sregText d, slotText k]
  | .stf k r => [slotText k, fregText r]
  | .sts k r => [slotText k, sregText r]

/-- The line of an instruction: its mnemonic and its operands, separated by commas (R310). -/
def asmLine (i : Instr) : List Char :=
  match asmOperands i with
  | [] => (asmMnemonic i).toList
  | ops => (asmMnemonic i).toList ++ ' ' :: List.intercalate [',', ' '] ops

/-! ### Pseudo-instructions -/

/-- The pseudo-instructions (R311). -/
inductive Pseudo where
  | zero (fd : FReg)
  | one (fd : FReg)
  | dbl (fd fa : FReg)
  | clrc
  | setc
  | sgnc
  | notc
  | cpar (fa : FReg)
  | ste (slot : Slot) (fs : FReg)
  deriving DecidableEq, Repr

/-- The one instruction a pseudo-instruction stands for (R311). -/
def Pseudo.expand : Pseudo → Instr
  | .zero d => .ldc d 0
  | .one d => .ldc d 1
  | .dbl d a => .add d a a
  | .clrc => .cflg .zero
  | .setc => .cflg .one
  | .sgnc => .cflg .sg
  | .notc => .cflg .not
  | .cpar a => .cbitf a 0
  | .ste k r => .stf k r

/-! ### Reading -/

/-- A space or a tab. -/
def isBlank (c : Char) : Bool := c == ' ' || c == '\t'

/-- The text without blanks at either end. -/
def trimText (cs : List Char) : List Char :=
  ((cs.dropWhile isBlank).reverse.dropWhile isBlank).reverse

/-- The text before the comment (R310). -/
def stripComment (cs : List Char) : List Char := cs.takeWhile (· != ';')

/-- The pieces between commas; none of an empty text. -/
def splitCommas : List Char → List (List Char)
  | [] => []
  | c :: cs =>
    if c = ',' then [] :: (if cs = [] then [[]] else splitCommas cs)
    else
      match splitCommas cs with
      | [] => [[c]]
      | w :: ws => (c :: w) :: ws

/-- The value of a digit in a base up to 16. -/
def digitValue (base : Nat) (c : Char) : Option Nat :=
  let v :=
    if '0' ≤ c ∧ c ≤ '9' then c.toNat - '0'.toNat
    else if 'a' ≤ c ∧ c ≤ 'f' then c.toNat - 'a'.toNat + 10
    else if 'A' ≤ c ∧ c ≤ 'F' then c.toNat - 'A'.toNat + 10
    else 16
  if v < base then some v else none

/-- Digits read in a base, after `acc`. -/
def digitsValue (base : Nat) : List Char → Nat → Option Nat
  | [], acc => some acc
  | c :: cs, acc => (digitValue base c).bind fun v => digitsValue base cs (base * acc + v)

/-- A decimal number. -/
def readDecimal (cs : List Char) : Option Nat := if cs = [] then none else digitsValue 10 cs 0

/-- A decimal or `0x` number (R310). -/
def readNumber (cs : List Char) : Option Nat :=
  match cs with
  | '0' :: 'x' :: hex => if hex = [] then none else digitsValue 16 hex 0
  | _ => readDecimal cs

/-- A number below `n`. -/
def readBelow (n : Nat) (v : Option Nat) : Option (Fin n) :=
  v.bind fun k => if h : k < n then some ⟨k, h⟩ else none

/-- A field register, as it is written. -/
def readFreg (cs : List Char) : Option FReg := (List.finRange 16).find? fun r => fregText r == cs

/-- A scalar register, as it is written. -/
def readSreg (cs : List Char) : Option SReg := (List.finRange 4).find? fun r => sregText r == cs

/-- A slot `[n]`. -/
def readSlot (cs : List Char) : Option Slot :=
  match cs with
  | '[' :: rest =>
    if rest.getLast? = some ']' then readBelow 32 (readDecimal (trimText rest.dropLast)) else none
  | _ => none

/-- A mode of CFLG. -/
def readMode (cs : List Char) : Option CflgMode := [.zero, .one, .sg, .not].find? fun m => modeText m == cs

/-- The shapes of FFF, FF, PFF. -/
def read3F (mk : FReg → FReg → FReg → Instr) : List (List Char) → Option Instr
  | [d, a, b] => do return mk (← readFreg d) (← readFreg a) (← readFreg b)
  | _ => none

/-- Two field registers. -/
def read2F (mk : FReg → FReg → Instr) : List (List Char) → Option Instr
  | [d, a] => do return mk (← readFreg d) (← readFreg a)
  | _ => none

/-- One field register. -/
def read1F (mk : FReg → Instr) : List (List Char) → Option Instr
  | [d] => do return mk (← readFreg d)
  | _ => none

/-- No operand. -/
def read0 (i : Instr) : List (List Char) → Option Instr
  | [] => some i
  | _ => none

/-- A field register and a slot. -/
def readFM (mk : FReg → Slot → Instr) : List (List Char) → Option Instr
  | [d, k] => do return mk (← readFreg d) (← readSlot k)
  | _ => none

/-- A slot and a field register. -/
def readMF (mk : Slot → FReg → Instr) : List (List Char) → Option Instr
  | [k, r] => do return mk (← readSlot k) (← readFreg r)
  | _ => none

/-- The instruction of a mnemonic in capitals and its operands (R305, R310, R311). -/
def readInstr (mnemonic : String) (ops : List (List Char)) : Option Instr :=
  match mnemonic with
  | "HALT" => read0 .halt ops
  | "NOP" => read0 .nop ops
  | "ADD" => read3F .add ops
  | "SUB" => read3F .sub ops
  | "MUL" => read3F .mul ops
  | "SQR" => read2F .sqr ops
  | "NEG" => read2F .neg ops
  | "MOV" => read2F .mov ops
  | "LDC" => match ops with
    | [d, k] => do return .ldc (← readFreg d) (← readBelow 8 (readNumber k))
    | _ => none
  | "INV" => read2F .inv ops
  | "SQRT" => read2F .sqrt ops
  | "CSEL" => read3F .csel ops
  | "CSWAP" => read2F .cswap ops
  | "CEQ" => read2F .ceq ops
  | "CBITF" => match ops with
    | [a, n] => do return .cbitf (← readFreg a) (← readBelow 256 (readNumber n))
    | _ => none
  | "CBITS" => match ops with
    | [a, n] => do return .cbits (← readSreg a) (← readBelow 256 (readNumber n))
    | _ => none
  | "CFLG" => match ops with
    | [m] => do return .cflg (← readMode m)
    | _ => none
  | "M2E" => read2F .m2e ops
  | "E2M" => read2F .e2m ops
  | "CLAMP" => match ops with
    | [d, a] => do return .clamp (← readSreg d) (← readSreg a)
    | _ => none
  | "RND" => match ops with
    | [d] => do return .rnd (← readSreg d)
    | _ => none
  | "LDU" => readFM .ldu ops
  | "LDE" => readFM .lde ops
  | "LDS" => match ops with
    | [d, k] => do return .lds (← readSreg d) (← readSlot k)
    | _ => none
  | "STF" => readMF .stf ops
  | "STS" => match ops with
    | [k, r] => do return .sts (← readSlot k) (← readSreg r)
    | _ => none
  | "ZERO" => read1F (fun d => (Pseudo.zero d).expand) ops
  | "ONE" => read1F (fun d => (Pseudo.one d).expand) ops
  | "DBL" => read2F (fun d a => (Pseudo.dbl d a).expand) ops
  | "CLRC" => read0 Pseudo.clrc.expand ops
  | "SETC" => read0 Pseudo.setc.expand ops
  | "SGNC" => read0 Pseudo.sgnc.expand ops
  | "NOTC" => read0 Pseudo.notc.expand ops
  | "CPAR" => read1F (fun a => (Pseudo.cpar a).expand) ops
  | "STE" => readMF (fun k r => (Pseudo.ste k r).expand) ops
  | _ => none

/-- A line of assembly: the instruction it stands for, `some none` for a line without one, none for a line that is no
assembly (R310). -/
def readLine (cs : List Char) : Option (Option Instr) :=
  let body := trimText (stripComment cs)
  if body = [] then some none
  else
    let mnemonic := body.takeWhile fun c => !isBlank c
    let rest := trimText (body.dropWhile fun c => !isBlank c)
    (readInstr (String.ofList (mnemonic.map Char.toUpper)) ((splitCommas rest).map trimText)).map some

end Sys2Proof.Machine
end

