-- ==== Sys2Proof/Tests/Slice0.lean ====
section
/-! SUPPORT. The model's own tests, each a named theorem about one word or one step, with expected values from the spec
(spec/30_encoding.md R305 to R312, 95_test_vectors.md), and a witness for every statement that has hypotheses. -/

namespace Sys2Proof.Tests

open Machine

/-! ### Well-formedness: an ill-formed term for each check, refused -/

theorem test_n_refuses_imm : Format.accepts .n ⟨1, 0, 0, 0, 1⟩ = false := by decide
theorem test_n_refuses_x : Format.accepts .n ⟨1, 1, 0, 0, 0⟩ = false := by decide
theorem test_n_refuses_y : Format.accepts .n ⟨1, 0, 1, 0, 0⟩ = false := by decide
theorem test_n_refuses_z : Format.accepts .n ⟨1, 0, 0, 1, 0⟩ = false := by decide
theorem test_fff_refuses_imm : Format.accepts .fff ⟨4, 15, 15, 15, 1⟩ = false := by decide
theorem test_ff_refuses_z : Format.accepts .ff ⟨7, 15, 15, 1, 0⟩ = false := by decide
theorem test_ff_refuses_imm : Format.accepts .ff ⟨7, 15, 15, 0, 0x2000⟩ = false := by decide
theorem test_fk_refuses_y : Format.accepts .fk ⟨10, 15, 8, 0, 7⟩ = false := by decide
theorem test_fk_refuses_z : Format.accepts .fk ⟨10, 15, 0, 1, 7⟩ = false := by decide
theorem test_fk_refuses_k : Format.accepts .fk ⟨10, 15, 0, 0, 8⟩ = false := by decide
theorem test_pff_refuses_x : Format.accepts .pff ⟨17, 1, 15, 15, 0⟩ = false := by decide
theorem test_pff_refuses_imm : Format.accepts .pff ⟨17, 0, 15, 15, 1⟩ = false := by decide
theorem test_bf_refuses_x : Format.accepts .bf ⟨19, 1, 15, 0, 255⟩ = false := by decide
theorem test_bf_refuses_z : Format.accepts .bf ⟨19, 0, 15, 1, 255⟩ = false := by decide
theorem test_bf_refuses_n : Format.accepts .bf ⟨19, 0, 15, 0, 256⟩ = false := by decide
theorem test_bs_refuses_x : Format.accepts .bs ⟨20, 1, 3, 0, 255⟩ = false := by decide
theorem test_bs_refuses_y : Format.accepts .bs ⟨20, 0, 4, 0, 255⟩ = false := by decide
theorem test_bs_refuses_z : Format.accepts .bs ⟨20, 0, 3, 1, 255⟩ = false := by decide
theorem test_bs_refuses_n : Format.accepts .bs ⟨20, 0, 3, 0, 256⟩ = false := by decide
theorem test_mode_refuses_x : Format.accepts .mode ⟨21, 1, 0, 0, 3⟩ = false := by decide
theorem test_mode_refuses_y : Format.accepts .mode ⟨21, 0, 1, 0, 3⟩ = false := by decide
theorem test_mode_refuses_z : Format.accepts .mode ⟨21, 0, 0, 1, 3⟩ = false := by decide
theorem test_mode_refuses_mode : Format.accepts .mode ⟨21, 0, 0, 0, 4⟩ = false := by decide
theorem test_ss_refuses_x : Format.accepts .ss ⟨28, 4, 3, 0, 0⟩ = false := by decide
theorem test_ss_refuses_y : Format.accepts .ss ⟨28, 3, 4, 0, 0⟩ = false := by decide
theorem test_ss_refuses_z : Format.accepts .ss ⟨28, 3, 3, 8, 0⟩ = false := by decide
theorem test_ss_refuses_imm : Format.accepts .ss ⟨28, 3, 3, 0, 1⟩ = false := by decide
theorem test_s_refuses_x : Format.accepts .s ⟨29, 8, 0, 0, 0⟩ = false := by decide
theorem test_s_refuses_y : Format.accepts .s ⟨29, 3, 1, 0, 0⟩ = false := by decide
theorem test_s_refuses_z : Format.accepts .s ⟨29, 3, 0, 1, 0⟩ = false := by decide
theorem test_s_refuses_imm : Format.accepts .s ⟨29, 3, 0, 0, 1⟩ = false := by decide
theorem test_fm_refuses_y : Format.accepts .fm ⟨32, 15, 1, 0, 31⟩ = false := by decide
theorem test_fm_refuses_z : Format.accepts .fm ⟨32, 15, 0, 1, 31⟩ = false := by decide
theorem test_fm_refuses_slot : Format.accepts .fm ⟨32, 15, 0, 0, 32⟩ = false := by decide
theorem test_sm_refuses_x : Format.accepts .sm ⟨34, 4, 0, 0, 31⟩ = false := by decide
theorem test_sm_refuses_y : Format.accepts .sm ⟨34, 3, 1, 0, 31⟩ = false := by decide
theorem test_sm_refuses_z : Format.accepts .sm ⟨34, 3, 0, 1, 31⟩ = false := by decide
theorem test_sm_refuses_slot : Format.accepts .sm ⟨34, 3, 0, 0, 32⟩ = false := by decide
theorem test_mf_refuses_y : Format.accepts .mf ⟨36, 15, 1, 0, 31⟩ = false := by decide
theorem test_mf_refuses_z : Format.accepts .mf ⟨36, 15, 0, 1, 31⟩ = false := by decide
theorem test_mf_refuses_slot : Format.accepts .mf ⟨36, 15, 0, 0, 32⟩ = false := by decide
theorem test_ms_refuses_x : Format.accepts .ms ⟨37, 4, 0, 0, 31⟩ = false := by decide
theorem test_ms_refuses_y : Format.accepts .ms ⟨37, 3, 1, 0, 31⟩ = false := by decide
theorem test_ms_refuses_z : Format.accepts .ms ⟨37, 3, 0, 1, 31⟩ = false := by decide
theorem test_ms_refuses_slot : Format.accepts .ms ⟨37, 3, 0, 0, 32⟩ = false := by decide
theorem test_accepts_full_operands : Format.accepts .ms ⟨37, 3, 0, 0, 31⟩ = true := by decide

/-! ### Decoding: words written out from R301 to R305 and from 95_test_vectors.md -/

theorem test_decode_halt : decode 0x04000000 = .ok .halt := by decide
theorem test_decode_nop : decode 0x08000000 = .ok .nop := by decide
theorem test_decode_add : decode 0x10C48000 = .ok (.add 3 1 2) := by decide
theorem test_decode_sub : decode 0x14C48000 = .ok (.sub 3 1 2) := by decide
theorem test_decode_mul : decode 0x1B2D4000 = .ok (.mul 12 11 5) := by decide
theorem test_decode_sqr : decode 0x1D940000 = .ok (.sqr 6 5) := by decide
theorem test_decode_neg : decode 0x20840000 = .ok (.neg 2 1) := by decide
theorem test_decode_mov : decode 0x24C00000 = .ok (.mov 3 0) := by decide
theorem test_decode_ldc : decode 0x2BC00004 = .ok (.ldc 15 4) := by decide
theorem test_decode_inv : decode 0x31480000 = .ok (.inv 5 2) := by decide
theorem test_decode_sqrt : decode 0x34840000 = .ok (.sqrt 2 1) := by decide
theorem test_decode_csel : decode 0x4108C000 = .ok (.csel 4 2 3) := by decide
theorem test_decode_cswap : decode 0x44090000 = .ok (.cswap 2 4) := by decide
theorem test_decode_ceq : decode 0x48048000 = .ok (.ceq 1 2) := by decide
theorem test_decode_cbitf : decode 0x4C0400FE = .ok (.cbitf 1 254) := by decide
theorem test_decode_cbits : decode 0x500000FE = .ok (.cbits 0 254) := by decide
theorem test_decode_cflg : decode 0x54000002 = .ok (.cflg .sg) := by decide
theorem test_decode_m2e : decode 0x60400000 = .ok (.m2e 1 0) := by decide
theorem test_decode_e2m : decode 0x64400000 = .ok (.e2m 1 0) := by decide
theorem test_decode_clamp : decode 0x70400000 = .ok (.clamp 1 0) := by decide
theorem test_decode_rnd : decode 0x74400000 = .ok (.rnd 1) := by decide
theorem test_decode_ldu : decode 0x83C0001F = .ok (.ldu 15 31) := by decide
theorem test_decode_lde : decode 0x84000000 = .ok (.lde 0 0) := by decide
theorem test_decode_lds : decode 0x88000000 = .ok (.lds 0 0) := by decide
theorem test_decode_stf : decode 0x91800002 = .ok (.stf 2 6) := by decide
theorem test_decode_sts : decode 0x94000003 = .ok (.sts 3 0) := by decide

/-- V-DEC-1 to V-DEC-9, V-LDC-6, V-CBITS-5, V-CFLG-6, V-CLAMP-6 and V-CODEC-1: what each word is refused as. -/
theorem test_decode_illegal :
    decode 0x00000000 = .error (.unassignedOpcode 0) ∧ decode 0x0C000000 = .error (.unassignedOpcode 3) ∧
    decode 0xFC000000 = .error (.unassignedOpcode 0x3F) ∧ decode 0x04000001 = .error (.reservedBits .n) ∧
    decode 0x10000001 = .error (.reservedBits .fff) ∧ decode 0x44400000 = .error (.reservedBits .pff) ∧
    decode 0x74040000 = .error (.reservedBits .s) ∧ decode 0x70300000 = .error (.reservedBits .ss) ∧
    decode 0x28000008 = .error (.reservedBits .fk) ∧ decode 0x50100000 = .error (.reservedBits .bs) ∧
    decode 0x54000004 = .error (.reservedBits .mode) ∧ decode 0x71000000 = .error (.reservedBits .ss) ∧
    decode 0x80000020 = .error (.reservedBits .fm) := by decide

theorem test_decodeTableWord : decodeTableWord 32 0x50040000 = some (.cbits 1 0) ∧ decodeTableWord 32 0x0C000000 = none := by
  decide

/-! ### Assembly (R310 to R312) -/

theorem test_line_add : asmLine (.add 3 1 2) = "ADD f3, f1, f2".toList := by decide
theorem test_line_stf : asmLine (.stf 2 6) = "STF [2], f6".toList := by decide
theorem test_line_cflg : asmLine (.cflg .sg) = "CFLG sg".toList := by decide
theorem test_read_comment : readLine "  stf [2], f6 ; result".toList = some (some (.stf 2 6)) := by decide +kernel
theorem test_read_hex : readLine "CBITS s0, 0xFE".toList = some (some (.cbits 0 254)) := by decide +kernel
theorem test_read_pseudo : readLine "DBL f3, f1".toList = some (some (.add 3 1 1)) ∧
    readLine "cpar f1".toList = some (some (.cbitf 1 0)) := by decide +kernel
theorem test_read_other_file : readLine "CBITS f0, 3".toList = none := by decide +kernel
theorem test_read_slot_range : readLine "LDU f0, [32]".toList = none := by decide +kernel
theorem test_read_comment_only : readLine "; nothing".toList = some none := by decide +kernel

/-! ### Small states -/

/-- A core in a run at pc 0, everything else as after reset. -/
def started : State := { State.reset with busy := true }

/-- `started` with field registers set. -/
def withF (l : List (FReg × Nat)) : State := l.foldl (fun s p => s.setF p.1 (Fe.ofNat p.2)) started

/-- `started` with the 32 bytes of a slot written. -/
def withSlot (k : Slot) (v : Nat) : State := started.memWrite (slotOffset k) 32 v

/-- `started` with word `w` at index 0 of IMEM. -/
def withWord (w : Word) : State := started.setImemWord 0 w

/-- The next state, where there is one. -/
def after (r : Result) : State :=
  match r with
  | .next t => t
  | .fault _ => State.reset
  | .refused _ => State.reset

/-- The state after one step that runs word `w`. -/
def ran (s : State) (w : Nat) : State := after (step (s.withFetchWord 32 w))

/-- 4/5, the base point's y (95_test_vectors.md). -/
def baseY : Nat := 0x6666666666666666666666666666666666666666666666666666666666666658

/-! ### Field arithmetic (V-ADD-2 to V-SQRT-9) -/

theorem test_add_wraps : (ran (withF [(1, P - 1), (2, 1)]) 0x10C48000).readF 3 = Fe.ofNat 0 := by decide
theorem test_add_aliased : (ran (withF [(1, (P + 1) / 2)]) 0x10444000).readF 1 = Fe.ofNat 1 := by decide
theorem test_sub_borrows : (ran (withF [(1, 0), (2, 1)]) 0x14C48000).readF 3 = Fe.ofNat (P - 1) := by decide
theorem test_sub_order : (ran (withF [(1, 1), (2, P - 1)]) 0x14C48000).readF 3 = Fe.ofNat 2 := by decide
theorem test_mul_reduces : (ran (withF [(1, 2 ^ 128), (2, 2 ^ 128)]) 0x18C48000).readF 3 = Fe.ofNat 38 := by decide
theorem test_mul_small : (ran (withF [(1, 486662), (2, 121665)]) 0x18C48000).readF 3 = Fe.ofNat 0xdc92cd086 := by decide
theorem test_sqr_reduces : (ran (withF [(1, 2 ^ 128)]) 0x1C840000).readF 2 = Fe.ofNat 38 := by decide
theorem test_sqr_root_of_minus_one : (ran (withF [(1, sqrtM1.val)]) 0x1C840000).readF 2 = Fe.ofNat (P - 1) := by decide
theorem test_neg_zero : (ran (withF [(1, 0)]) 0x20840000).readF 2 = Fe.ofNat 0 := by decide
theorem test_neg_one : (ran (withF [(1, 1)]) 0x20840000).readF 2 = Fe.ofNat (P - 1) := by decide
theorem test_mov : (ran (withF [(0, 9)]) 0x24C00000).readF 3 = Fe.ofNat 9 := by decide
theorem test_ldc_f15 : (ran started 0x2BC00004).readF 15 = Fe.ofNat 121665 := by decide
theorem test_ldc_sqrt_m1 : ((ran started 0x28400005).readF 1).val =
    0x2b8324804fc1df0b2b4d00993dfbd7a72f431806ad2fe478c4ee1b274a0ea0b0 := by decide
theorem test_inv_two : (ran (withF [(1, 2)]) 0x30840000).readF 2 = Fe.ofNat ((P + 1) / 2) := by decide +kernel
theorem test_inv_zero : (ran (withF [(1, 0)]) 0x30840000).readF 2 = Fe.ofNat 0 := by decide +kernel
theorem test_sqrt_second_candidate : (ran (withF [(1, 4)]) 0x34840000).readF 2 = Fe.ofNat (P - 2) := by decide +kernel
theorem test_sqrt_traps : (ran (withF [(1, 2)]) 0x34840000).cause = .notASquare := by decide +kernel

/-! ### Select, swap and flags (V-CSEL-1 to V-CFLG-5) -/

theorem test_csel_true : (ran ((withF [(1, 5), (2, 7)]).setC true) 0x40C48000).readF 3 = Fe.ofNat 5 := by decide
theorem test_csel_false : (ran (withF [(1, 5), (2, 7)]) 0x40448000).readF 1 = Fe.ofNat 7 := by decide
theorem test_cswap_swaps : let t := ran ((withF [(1, 5), (2, 7)]).setC true) 0x44048000
    t.readF 1 = Fe.ofNat 7 ∧ t.readF 2 = Fe.ofNat 5 := by decide
theorem test_cswap_same : (ran ((withF [(1, 5)]).setC true) 0x44044000).readF 1 = Fe.ofNat 5 := by decide
theorem test_ceq_equal : (ran (withF [(1, 9), (2, 9)]) 0x48048000).c = true := by decide
theorem test_ceq_unequal : (ran ((withF [(1, 9), (2, 10)]).setC true) 0x48048000).c = false := by decide
theorem test_cbitf_254 : (ran (withF [(1, P - 1)]) 0x4C0400FE).c = true := by decide
theorem test_cbitf_255 : (ran ((withF [(1, P - 1)]).setC true) 0x4C0400FF).c = false := by decide
theorem test_cbits_255 : (ran (started.setS 0 (BitVec.allOnes 256)) 0x500000FF).c = true := by decide
theorem test_cbits_s1 : (ran (started.setS 1 1) 0x50040000).c = true := by decide
theorem test_cflg_sg : (ran (started.setSG true) 0x54000002).c = true := by decide
theorem test_cflg_not : (ran (started.setC true) 0x54000003).c = false := by decide

/-! ### Scalars (V-CLAMP-3 to V-RND-3) -/

theorem test_clamp_all_ones :
    ((ran (started.setS 0 (BitVec.allOnes 256)) 0x70000000).readS 0).toNat = 2 ^ 255 - 8 := by decide
theorem test_clamp_zero : ((ran started 0x70000000).readS 0).toNat = 2 ^ 254 := by decide
theorem test_rnd_zero_bytes :
    let t := ran { started.setS 1 7 with rngAnswers := [.ok 0] } 0x74400000
    t.readS 1 = 0 ∧ t.faulted = false := by decide
theorem test_rnd_fails : (ran { started with rngAnswers := [.fail] } 0x74000000).cause = .rngFailure := by decide

/-! ### The birational map (V-M2E-1 to V-E2M-7) -/

theorem test_m2e_base_point : (ran (withF [(0, 9)]) 0x60400000).readF 1 = Fe.ofNat baseY := by decide +kernel
theorem test_m2e_traps : let t := ran (withF [(0, P - 1), (1, 3)]) 0x60400000
    t.cause = .invalidPoint ∧ t.readF 1 = Fe.ofNat 0 := by decide +kernel
theorem test_e2m_base_point : (ran ((withF [(0, baseY)]).setSG true) 0x64400000).readF 1 = Fe.ofNat 9 := by decide +kernel
theorem test_e2m_traps : (ran (withF [(0, 1)]) 0x64400000).cause = .invalidPoint := by decide +kernel

/-! ### The codec (V-LDU-3 to V-STS-2) -/

theorem test_ldu_reduces : (ran (withSlot 0 (2 ^ 256 - 1)) 0x80000000).readF 0 = Fe.ofNat 18 := by decide
theorem test_ldu_slot_31 : (ran (withSlot 31 5) 0x83C0001F).readF 15 = Fe.ofNat 5 := by decide
theorem test_lde_sign : let t := ran (withSlot 0 (2 ^ 256 - 1)) 0x84000000
    t.readF 0 = Fe.ofNat 18 ∧ t.sg = true := by decide
theorem test_lde_strict : let t := ran { withSlot 0 (2 ^ 255 - 1) with strict := true } 0x84000000
    t.cause = .invalidEncoding ∧ t.sg = false := by decide
theorem test_lds_raw : (ran (withSlot 0 (2 ^ 256 - 1)) 0x88000000).readS 0 = BitVec.allOnes 256 := by decide
theorem test_lds_little_endian : ((ran (withSlot 0 0x0201) 0x88000000).readS 0).toNat = 0x0201 := by decide
theorem test_stf_bytes : let t := ran (withF [(1, P - 1)]) 0x90400001
    t.dmemByte 32 = 0xec ∧ t.dmemByte 33 = 0xff ∧ t.dmemByte 63 = 0x7f := by decide
theorem test_sts_bit_255 : (ran (started.setS 0 (BitVec.allOnes 256)) 0x94000001).dmemByte 63 = 0xff := by decide

/-! ### Sequencing, traps and the host port (V-SEQ-1 to V-DEC-1; 10_state.md, 20_memory.md, 70_reset_and_hazards.md) -/

theorem test_halt : let t := ran started 0x04000000
    t.done = true ∧ t.faulted = false ∧ t.pcCsr = 0 ∧ t.retired = 1 ∧ t.busy = false := by decide
theorem test_nop : let t := ran started 0x08000000
    t.pc = 1 ∧ t.retired = 1 := by decide
theorem test_fetch_bound : let t := after (step { started with pc := 8192, retired := 2 })
    t.cause = .fetchBound ∧ t.epc = 8192 ∧ t.pcCsr = 8192 ∧ t.retired = 2 := by decide
theorem test_illegal : let t := ran (withF [(0, 1)]) 0
    t.cause = .illegalInstruction ∧ t.retired = 0 ∧ t.readF 0 = Fe.ofNat 0 ∧ t.csrRead .status = 6 := by decide
/-- The first instruction after reset: the host's START comes with it. -/
theorem test_first_instruction : let t := ran State.reset 0x28400002
    t.readF 1 = Fe.ofNat 9 ∧ t.pc = 1 ∧ t.busy = true := by decide

/-- One host access. -/
def host (s : State) (a : HostAccess) : State := after (step { s with turns := [.host a] })

theorem test_start : let t := host { State.reset with entry := 5, hacc := true } (.write 0x4 7)
    t.busy = true ∧ t.pc = 5 ∧ t.ie = true ∧ t.strict = true ∧ t.hacc = true := by decide
theorem test_start_while_busy : let t := host started (.write 0x4 1)
    t.hacc = true ∧ t.busy = true := by decide
theorem test_status_write_one_clears :
    (host { State.reset with done := true, hacc := true, faulted := true } (.write 0x8 0xA)).csrRead .status = 4 := by decide
theorem test_id_reads : (host State.reset (.read 0x3)).hostData = 0x58464301 := by decide
theorem test_dmem_word : let t := host State.reset (.write 0x4004 0x04030201)
    t.dmemByte 4 = 1 ∧ t.dmemByte 7 = 4 ∧ (host t (.read 0x4005)).hostData = 0x04030201 := by decide
/-- R127: a run of one NOP and HALT counts 2, whatever the bound of IMEM. -/
theorem test_final_count : ((withWord 0x08000000).setImemWord 1 0x04000000).finalCount = 2 := by decide
/-- R127: ENTRY = 0 with HALT at 0: RETIRED reads 0 or 1 during the run, never more. -/
theorem test_retired_bound : (withWord 0x04000000).finalCount = 1 := by decide
theorem test_imem_word : (host State.reset (.write 0xFFFC 0x08000000)).imemWord 8191 = 0x08000000 := by decide
theorem test_busy_read : let t := host (withSlot 0 5) (.read 0x4000)
    t.hostData = 0 ∧ t.hacc = true := by decide
theorem test_reset_cuts_store :
    let s := { (withF [(1, 0x0203)]).setImemWord 0 0x90400000 with turns := [.reset 1] }
    let t := after (step ({ s with dmem := [(0, 8), (1, 9)] } : State))
    t.dmemByte 0 = 3 ∧ t.dmemByte 1 = 9 ∧ t.busy = false ∧ t.readF 1 = Fe.ofNat 0 := by decide
theorem test_memory_form : (host (host State.reset (.write 0x4004 1)) (.write 0x4000 2)).dmem.map Prod.fst =
    [0, 1, 2, 3, 4, 5, 6, 7] := by decide

/-! ### Witnesses: for each statement with hypotheses, a state and operands that meet them, clause by clause -/

/-- `started` with host access `a` as the coming turn. -/
def withHost (s : State) (a : HostAccess) : State := { s with turns := [.host a] }

theorem witness_DecodedWordsReencode : decode 0x94C0001F = .ok (.sts 31 3) := by decide

theorem witness_UnmatchedWordsTrapIllegal_step : let s := withWord 0
    s.turn = .sequencer ∧ s.busy = true ∧ s.pc.toNat < imemWords ∧ matchesSomeRow (s.imemWord s.pc.toNat) = false := by
  decide
theorem witness_UnmatchedWordsTrapIllegal_opcode :
    ([0, 0x0C000000, 0x8C000000, 0x98000000, 0xFC000000].all fun w : Word => decide (w.toNat / 2 ^ 26 ∈ unassignedOps)) = true := by
  decide
theorem witness_UnmatchedWordsTrapIllegal_bits : (0xFF3FFFE0, 0x94000000) ∈ opcodeRows ∧
    (0x95000000 : Word).toNat / 2 ^ 26 = (0x94000000 : Word).toNat / 2 ^ 26 ∧
    (0x95000000 : Word) &&& 0xFF3FFFE0 ≠ 0x94000000 := by decide

theorem witness_StepRunsDecodedInstruction : let s := withWord 0x08000000
    s.turn = .sequencer ∧ s.busy = true ∧ s.pc.toNat < imemWords ∧
    decode (s.imemWord s.pc.toNat) = .ok .nop ∧ s.turns = [] := by decide

theorem witness_SequencerCycle_idle : State.reset.turn = .sequencer ∧ State.reset.busy = false := by decide
theorem witness_SequencerCycle_bound : let s := { started with pc := 8192 }
    s.turn = .sequencer ∧ s.busy = true ∧ s.pc.toNat = imemWords := by decide
theorem witness_SequencerCycle_illegal : let s := { started.setImemWord 8191 0x0C000000 with pc := 8191 }
    s.turn = .sequencer ∧ s.busy = true ∧ s.pc.toNat < imemWords ∧
    ∀ i, decode (s.imemWord s.pc.toNat) ≠ .ok i := by
  refine ⟨by decide, by decide, by decide, fun i h => ?_⟩
  have he : decode 0x0C000000 = .error (.unassignedOpcode 3) := by decide
  cases he.symm.trans h
theorem witness_SequencerCycle_instruction : let s := { started.setImemWord 8191 0x04000000 with pc := 8191 }
    s.turn = .sequencer ∧ s.busy = true ∧ s.pc.toNat < imemWords ∧ decode (s.imemWord s.pc.toNat) = .ok .halt := by
  decide

theorem witness_FetchBeyondImemTraps_bound : let s := { started with pc := 8192 }
    s.turn = .sequencer ∧ s.busy = true ∧ s.pc.toNat = 8192 := by decide
theorem witness_FetchBeyondImemTraps_last : let s := { started with pc := 8191 }
    s.pc.toNat = 8191 ∧ exec .nop s = .next s.retire ∧ s.retire.retired = s.retired + 1 ∧ Instr.nop ≠ .halt :=
  ⟨by decide, rfl, by decide, by decide⟩

/-- A run at a NOP meets the invariant: the witness of the statements over it. -/
theorem nopRun_inv : (withWord 0x08000000).Inv := by
  constructor <;> first
    | decide
    | exact fun h => absurd h (by decide)

theorem witness_EveryStepKeepsInvariant : let s := withWord 0x08000000
    s.Inv ∧ step s = .next s.retire := ⟨nopRun_inv, rfl⟩
theorem witness_InvariantStatesNeverStop : (withWord 0x08000000).Inv := nopRun_inv

theorem witness_EveryRunEndsOrAwaitsRng_run : let s := withWord 0x08000000
    s.Inv ∧ s.busy = true ∧ s.turns = [] := ⟨nopRun_inv, rfl, rfl⟩
theorem witness_EveryRunEndsOrAwaitsRng_silent : let s := { withWord 0x74000000 with rngAnswers := [.silent] }
    s.busy = true ∧ s.turns = [] ∧ s.pc.toNat < imemWords ∧
    decode (s.imemWord s.pc.toNat) = .ok (.rnd 0) ∧ s.rngAnswer = .silent := by decide

/-- Two runs at a HALT that differ in HACC and in the RNG's answers, with no turns listed. -/
theorem witness_RunIsFunctionOfItsInputs :
    let s := withWord 0x04000000
    let s' := { s with hacc := true, rngAnswers := [.fail] }
    (∀ sd, Instr.nop ≠ .rnd sd) ∧ RunAgree s s' ∧ s'.entry = s.entry ∧ s.pc.toNat ≤ imemWords ∧ s.turns = [] ∧
    s'.turns = [] ∧ (∀ j, s'.imemWord j = s.imemWord j) ∧ FetchesNoRnd 1 s := by
  refine ⟨fun sd h => Instr.noConfusion h, ?_, rfl, by decide, rfl, rfl, fun _ => rfl, fun m u sd hm h _ _ hd => ?_⟩
  · exact ⟨fun _ => rfl, fun _ => rfl, ⟨rfl, rfl⟩, fun _ => rfl, rfl, rfl, rfl, rfl, rfl, rfl, rfl, rfl, fun _ => rfl⟩
  · obtain rfl : m = 0 := by omega
    injection h with h
    subst h
    exact absurd (test_decode_halt.symm.trans hd) (fun e => by cases e)

/-- A run at a HALT that ends in its second step, after a host read, and one without a host access. -/
theorem witness_RunIsFunctionOfItsInputs_host :
    let s := { withWord 0x04000000 with turns := [.host (.read 0x8)] }
    let s' := withWord 0x04000000
    s.busy = true ∧ RunAgree s s' ∧ (∀ j, s'.imemWord j = s.imemWord j) ∧ (∀ cut, Turn.reset cut ∉ s.turns) ∧
    (∀ cut, Turn.reset cut ∉ s'.turns) ∧ RunEndsAt 2 s (after (runSteps 2 s)) ∧ FetchesNoRnd 2 s := by
  refine ⟨rfl, ?_, fun _ => rfl, fun cut h => ?_, fun cut h => ?_, ⟨rfl, rfl, fun m u hm h => ?_⟩,
    fun m u sd hm h _ _ hd => ?_⟩
  · exact ⟨fun _ => rfl, fun _ => rfl, ⟨rfl, rfl⟩, fun _ => rfl, rfl, rfl, rfl, rfl, rfl, rfl, rfl, rfl, fun _ => rfl⟩
  · simp at h
  · cases h
  · obtain rfl | rfl : m = 0 ∨ m = 1 := by omega
    all_goals injection h with h; subst h; rfl
  · obtain rfl | rfl : m = 0 ∨ m = 1 := by omega
    all_goals
      injection h with h
      subst h
      exact absurd (test_decode_halt.symm.trans hd) (fun e => by cases e)

theorem witness_RegisterAccessTables : let s := started
    exec (.mov 3 0) s = .next (retireF 3 (s.readF 0) s) ∧ Retired s (retireF 3 (s.readF 0) s) ∧
    SameMemory s s ∧ s.rngAnswer = s.rngAnswer := ⟨rfl, ⟨rfl, rfl⟩, fun _ => rfl, rfl⟩

theorem witness_SequencerStaysInItsSpaces : exec (.stf 31 0) started = .next (retireSlot 31 (started.readF 0).val started) := rfl

theorem witness_ImemIsConstantDuringRun : let s := withWord 0x08000000
    (∀ m u, m < 1 → runSteps m s = .next u → u.busy = true) ∧ runSteps 1 s = .next s.retire := by
  refine ⟨fun m u hm h => ?_, rfl⟩
  obtain rfl : m = 0 := by omega
  injection h with h
  subst h
  rfl

theorem witness_StrictAndEntryAreConstantDuringRun : let s := withHost started (.write 0x18 7)
    s.busy = true ∧ (∀ cut, s.turn ≠ .reset cut) ∧ step s = .next { s with turns := [], hacc := true } :=
  ⟨rfl, fun _ h => Turn.noConfusion h, rfl⟩

theorem witness_RunEndZeroizesRegisters_halt : let s := withWord 0x04000000
    s.busy = true ∧ s.turn = .sequencer ∧ step s = .next (s.count.endRun false) ∧
    (s.count.endRun false).busy = false ∧ (s.count.endRun false).faulted = false := ⟨rfl, rfl, rfl, rfl, rfl⟩
theorem witness_RunEndZeroizesRegisters_trap : let s := { started with pc := 8192 }
    s.busy = true ∧ s.turn = .sequencer ∧ step s = .next (s.takeTrap .fetchBound) ∧
    (s.takeTrap .fetchBound).busy = false ∧ (s.takeTrap .fetchBound).faulted = true := ⟨rfl, rfl, rfl, rfl, rfl⟩

theorem witness_TrapRecordsRevealNoData : let s := { started with rngAnswers := [.fail] }
    let s' := { withF [(3, 7)] with rngAnswers := [.fail] }
    s'.pc = s.pc ∧ s.busy = true ∧ s'.busy = true ∧
    exec (.rnd 0) s = .next (s.closeRequest.takeTrap .rngFailure) ∧
    exec (.rnd 0) s' = .next (s'.closeRequest.takeTrap .rngFailure) ∧ Instr.rnd 0 ≠ .halt ∧
    (s.closeRequest.takeTrap .rngFailure).busy = false ∧ (s'.closeRequest.takeTrap .rngFailure).busy = false :=
  ⟨rfl, rfl, rfl, rfl, rfl, by decide, rfl, rfl⟩

theorem witness_ResetKeepsMemories_idle : let s := { State.reset with turns := [.reset 0] }
    s.turns = .reset 0 :: [] ∧ s.storeInProgress = none := by decide
theorem witness_ResetKeepsMemories_store : let s := { (withF [(1, 3)]).setImemWord 0 0x9040001F with turns := [.reset 1] }
    s.turns = .reset 1 :: [] ∧ s.storeInProgress = some (31, 3) := by decide

theorem witness_AcceptedStart : let s := withHost State.reset (.write 0x7 1)
    s.turns = .host (.write 0x7 1) :: [] ∧ (0x7 : BitVec 16).toNat / 4 = 1 ∧ s.busy = false ∧
    (1 : Word).getLsbD 0 = true := by decide

theorem witness_CtrlWrites : (0x4 : BitVec 16).toNat / 4 = 1 ∧
    (withHost State.reset (.write 0x4 6)).turns = .host (.write 0x4 6) :: [] ∧
    (withHost State.reset (.write 0x4 6)).busy = false ∧ (6 : Word).getLsbD 0 = false ∧
    (withHost State.reset (.write 0x4 5)).busy = false ∧ (5 : Word).getLsbD 0 = true ∧
    (withHost started (.write 0x4 4)).busy = true := by decide

theorem witness_StatusReadsAndWrites : (withHost started (.write 0xB 8)).turns = .host (.write 0xB 8) :: [] ∧
    (0xB : BitVec 16).toNat / 4 = 2 := by decide

theorem witness_EntryWrites : (0x18 : BitVec 16).toNat / 4 = 6 ∧
    (withHost State.reset (.write 0x18 8192)).turns = .host (.write 0x18 8192) :: [] ∧
    (withHost State.reset (.write 0x18 8192)).busy = false ∧ (withHost started (.write 0x18 8192)).busy = true := by
  decide

theorem witness_ReadOnlyCsrsIgnoreWrites : (withHost started (.write 0x1F 1)).turns = .host (.write 0x1F 1) :: [] ∧
    ([0x0, 0xC, 0x10, 0x14, 0x1F].all fun ha : BitVec 16 => decide (ha.toNat / 4 ∈ [0, 3, 4, 5, 7])) = true ∧
    (0x3 : BitVec 16).toNat / 4 = 0 ∧ (0xF : BitVec 16).toNat / 4 = 3 ∧ (0x10 : BitVec 16).toNat / 4 = 4 ∧
    (withHost started (.read 0x1F)).turns = .host (.read 0x1F) :: [] ∧ (0x1F : BitVec 16).toNat / 4 < 8 := by decide

/-- Words that agree on the bits a CSR takes and differ in a reserved bit. -/
theorem witness_ReservedCsrBits :
    (∀ n, n ≤ 2 → (0x8 : Word).getLsbD n = (0 : Word).getLsbD n) ∧
    (∀ n, n = 1 ∨ n = 3 → (0x5 : Word).getLsbD n = (0 : Word).getLsbD n) ∧
    (∀ n, n ≤ 12 → (0x2000 : Word).getLsbD n = (0 : Word).getLsbD n) := by
  refine ⟨fun n h => ?_, fun n h => ?_, fun n h => ?_⟩
  · interval_cases n <;> rfl
  · rcases h with rfl | rfl <;> rfl
  · interval_cases n <;> rfl

theorem witness_ReservedCsrBits_reads : let s := { State.reset with ie := true, hacc := true, epc := 8192, entry := 8191 }
    (s.csrRead .ctrl).getLsbD 1 = true ∧ (s.csrRead .status).getLsbD 3 = true ∧
    (s.csrRead .epc).getLsbD 13 = true ∧ (s.csrRead .entry).getLsbD 12 = true := by decide
theorem witness_ReservedCsrBits_reads_trap :
    let s := { State.reset with cause := .invalidEncoding, pcCsr := 8192 }
    (s.csrRead .cause).getLsbD 2 = true ∧ (s.csrRead .pc).getLsbD 13 = true := by decide

theorem witness_PcAndRetiredReads : State.reset.busy = false ∧ started.busy = true ∧
    (withHost started (.read 0x14)).turns = .host (.read 0x14) :: [] ∧
    (0x14 : BitVec 16).toNat / 4 = 5 ∧ (0x1F : BitVec 16).toNat / 4 = 7 := by decide
theorem witness_PcAndRetiredReads_step : let s := withWord 0x08000000
    s.Inv ∧ s.busy = true ∧ (∀ cut, s.turn ≠ .reset cut) ∧ step s = .next s.retire ∧ s.retire.busy = true :=
  ⟨nopRun_inv, rfl, fun _ h => Turn.noConfusion h, rfl, rfl⟩

theorem witness_UnmappedAddresses : (withHost started (.read 0x20)).turns = .host (.read 0x20) :: [] ∧
    (withHost started (.write 0x7FFF 1)).turns = .host (.write 0x7FFF 1) :: [] ∧
    ([0x20, 0x3FFF, 0x4400, 0x7FFF].all fun ha : BitVec 16 => decide
      ((0x20 ≤ ha.toNat ∧ ha.toNat ≤ 0x3FFF) ∨ (0x4400 ≤ ha.toNat ∧ ha.toNat ≤ 0x7FFF))) = true := by decide

theorem witness_HostDmemWordsAreLittleEndian : State.reset.busy = false ∧
    (0x4000 : BitVec 16).toNat = 0x4000 + 4 * 0 ∧ (0x43FC : BitVec 16).toNat = 0x4000 + 4 * 255 ∧
    (withHost State.reset (.read 0x43FC)).turns = .host (.read 0x43FC) :: [] ∧
    (withHost State.reset (.write 0x4000 1)).turns = .host (.write 0x4000 1) :: [] := by decide

theorem witness_HostImemWords : State.reset.busy = false ∧
    (0x8000 : BitVec 16).toNat = 0x8000 + 4 * 0 ∧ (0xFFFC : BitVec 16).toNat = 0x8000 + 4 * 8191 ∧
    (withHost State.reset (.read 0xFFFC)).turns = .host (.read 0xFFFC) :: [] ∧
    (withHost State.reset (.write 0x8000 1)).turns = .host (.write 0x8000 1) :: [] := by decide

theorem witness_MemoryIsLockedDuringRun : started.busy = true ∧
    ([0x4000, 0x43FF, 0x8000, 0xFFFF].all fun ha : BitVec 16 =>
      decide ((0x4000 ≤ ha.toNat ∧ ha.toNat ≤ 0x43FF) ∨ 0x8000 ≤ ha.toNat)) = true ∧
    (withHost started (.read 0x43FF)).turns = .host (.read 0x43FF) :: [] ∧
    (withHost started (.write 0x8000 1)).turns = .host (.write 0x8000 1) :: [] := by decide

theorem witness_IrqIsDoneAndEnabled_done : let s := withHost { State.reset with done := true, ie := true } (.write 0x8 2)
    s.irq = true ∧ s.turns = .host (.write 0x8 2) :: [] ∧ (0x8 : BitVec 16).toNat / 4 = 2 ∧ (2 : Word).getLsbD 1 = true ∧
    step s = .next (after (step s)) := ⟨rfl, rfl, rfl, rfl, rfl⟩
theorem witness_IrqIsDoneAndEnabled_ie : let s := withHost { State.reset with done := true, ie := true } (.write 0x4 0)
    s.irq = true ∧ s.turns = .host (.write 0x4 0) :: [] ∧ (0x4 : BitVec 16).toNat / 4 = 1 ∧ (0 : Word).getLsbD 1 = false ∧
    step s = .next (after (step s)) := ⟨rfl, rfl, rfl, rfl, rfl⟩
theorem witness_IrqIsDoneAndEnabled_start : let s := withHost { State.reset with done := true, ie := true } (.write 0x4 3)
    s.irq = true ∧ s.turns = .host (.write 0x4 3) :: [] ∧ (0x4 : BitVec 16).toNat / 4 = 1 ∧ s.busy = false ∧
    (3 : Word).getLsbD 0 = true ∧ step s = .next (after (step s)) := ⟨rfl, rfl, rfl, rfl, rfl, rfl⟩

theorem witness_HostReadsRevealNoRegister : let s := State.reset
    let t := ({ s with pc := 7 }.setF 3 (Fe.ofNat 5)).setSG true
    { t with f := s.f, sc := s.sc, c := s.c, sg := s.sg, pc := s.pc } = s ∧
    ((0x1C : BitVec 16).toNat / 4 = 7 → s.busy = true → t.finalCount = s.finalCount) :=
  ⟨rfl, fun _ h => Bool.noConfusion h⟩

theorem witness_LdcWritesRomConstant : (0x28000008 : Word).toNat / 2 ^ 26 = 0x0A ∧
    (0x28000008 : Word).toNat % 2 ^ 14 / 2 ^ 3 ≠ 0 := by decide

theorem witness_InvWritesPower : ((withF []).readF 1).val = 0 := by decide

/-- The candidates of a source, as `fpow` and `fmul` compute them. -/
theorem candidates_val (a : Fe) :
    a.val ^ ((P + 3) / 8) % P = (sqrtFirst a).val ∧
    a.val ^ ((P + 3) / 8) % P * 0x2b8324804fc1df0b2b4d00993dfbd7a72f431806ad2fe478c4ee1b274a0ea0b0 % P = (sqrtSecond a).val := by
  have h : a.val ^ ((P + 3) / 8) % P = (sqrtFirst a).val := (fpow_val _ _).symm
  refine ⟨h, ?_⟩
  rw [h, sqrtSecond, fmul_val]
  congr 1

theorem witness_SqrtWritesCandidateOrTraps_first : let x := ((withF [(1, 9)]).readF 1).val
    let r1 := x ^ ((P + 3) / 8) % P
    r1 * r1 % P = x ∧ x ≠ 0 := by
  dsimp only
  rw [(candidates_val _).1]
  decide +kernel
theorem witness_SqrtWritesCandidateOrTraps_second : let x := ((withF [(1, 4)]).readF 1).val
    let r1 := x ^ ((P + 3) / 8) % P
    let r2 := r1 * 0x2b8324804fc1df0b2b4d00993dfbd7a72f431806ad2fe478c4ee1b274a0ea0b0 % P
    r1 * r1 % P ≠ x ∧ r2 * r2 % P = x := by
  dsimp only
  rw [(candidates_val _).2, (candidates_val _).1]
  decide +kernel
theorem witness_SqrtWritesCandidateOrTraps_trap : let x := ((withF [(1, 2)]).readF 1).val
    let r1 := x ^ ((P + 3) / 8) % P
    let r2 := r1 * 0x2b8324804fc1df0b2b4d00993dfbd7a72f431806ad2fe478c4ee1b274a0ea0b0 % P
    r1 * r1 % P ≠ x ∧ r2 * r2 % P ≠ x := by
  dsimp only
  rw [(candidates_val _).2, (candidates_val _).1]
  decide +kernel

theorem witness_FieldIdentities : Fe.ofNat (P - 1) ≠ feZero := by decide

theorem witness_BitTestsCopyBitToC : (255 : BitIx) = 255 := rfl

theorem witness_ClampIsIdempotent :
    exec (.clamp 1 0) started = .next (retireS 1 (clampBits (started.readS 0)) started) ∧
    exec (.clamp 1 1) (retireS 1 (clampBits (started.readS 0)) started) =
      .next (retireS 1 (clampBits ((retireS 1 (clampBits (started.readS 0)) started).readS 1))
        (retireS 1 (clampBits (started.readS 0)) started)) := ⟨rfl, rfl⟩

theorem witness_RndWritesAnswerOrTraps_RndMakesOneRequest : State.rngAnswer { started with rngAnswers := [.ok 5] } = .ok 5 ∧
    State.rngAnswer { started with rngAnswers := [.fail] } = .fail ∧
    State.rngAnswer { started with rngAnswers := [.silent] } = .silent := by decide

theorem witness_M2eMapsOrTraps : ((withF [(0, P - 2)]).readF 0).val ≠ P - 1 ∧ ((withF [(0, P - 1)]).readF 0).val = P - 1 := by
  decide

theorem witness_E2mMapsOrTraps : ((withF [(0, 0)]).readF 0).val ≠ 1 ∧ ((withF [(0, 2)]).readF 0).val ≠ 1 ∧
    ((withF [(0, 1)]).readF 0).val = 1 := by decide

theorem witness_BirationalRoundTrip : ((withF [(0, 9)]).readF 0).val ≠ P - 1 ∧ ((withF [(0, baseY)]).readF 0).val ≠ 1 := by
  decide

/-- The value of slot 0 in the statement's form. -/
def slotSum (s : State) : Nat := Finset.sum (Finset.range 32) fun j => (s.dmemByte (32 * (0 : Slot).val + j)).toNat * 2 ^ (8 * j)

/-- y = P while STRICT = 0: no trap. -/
theorem witness_LdeDecodesEdwardsY_reduces :
    ¬(slotSum (withSlot 0 P) % 2 ^ 255 ≥ P ∧ (withSlot 0 P).strict = true) := by decide +kernel
/-- y = P - 1 with the sign bit set while STRICT = 1: no trap. -/
theorem witness_LdeDecodesEdwardsY_strict : let s := { withSlot 0 (P - 1 + 2 ^ 255) with strict := true }
    ¬(slotSum s % 2 ^ 255 ≥ P ∧ s.strict = true) ∧ 2 ^ 255 ≤ slotSum s := by decide +kernel
/-- y = P while STRICT = 1: a trap. -/
theorem witness_LdeDecodesEdwardsY_trap : let s := { withSlot 0 P with strict := true }
    slotSum s % 2 ^ 255 ≥ P ∧ s.strict = true := by decide +kernel

theorem witness_CodecRoundTrips :
    exec (.stf 31 15) started = .next (retireSlot 31 (started.readF 15).val started) ∧
    exec (.stf 31 0) started = .next (retireSlot 31 (started.readF 0).val started) ∧
    exec (.sts 0 3) started = .next (retireSlot 0 (started.readS 3).toNat started) := ⟨rfl, rfl, rfl⟩

end Sys2Proof.Tests
end

section
/-! PROOFS. What an instruction does, as data: the one write it makes or the way it stops. A statement about all
instructions is then a statement about the shapes of `Effect`, and about what `effect` reads and answers for each one. -/

namespace Sys2Proof.Machine

/-- What an instruction does to the state: the registers, flag or slot it writes before it retires, or how it stops. -/
inductive Effect where
  | nothing
  | writeF (d : FReg) (v : Fe)
  | writeFSign (d : FReg) (v : Fe) (sign : Bool)
  | swapF (a b : FReg) (va vb : Fe)
  | writeS (d : SReg) (v : BitVec 256)
  | writeC (b : Bool)
  | writeSlot (k : Slot) (v : Nat)
  | answered (d : SReg) (v : BitVec 256)
  | halt
  | trap (c : Cause)
  | rngFailed
  | await

/-- The state after an effect. -/
def Effect.apply (s : State) : Effect → State
  | nothing => s.retire
  | writeF d v => retireF d v s
  | writeFSign d v sign => retireF d v (s.setSG sign)
  | swapF a b va vb => retireF b vb (s.setF a va)
  | writeS d v => retireS d v s
  | writeC b => retireC b s
  | writeSlot k v => retireSlot k v s
  | answered d v => retireS d v s.closeRequest
  | halt => s.count.endRun false
  | trap c => s.takeTrap c
  | rngFailed => s.closeRequest.takeTrap .rngFailure
  | await => s.awaitRng

/-- The effect of an instruction that writes the field value it computes, or raises `c` where there is none. -/
def Effect.writeOrTrap (d : FReg) (c : Cause) : Option Fe → Effect
  | some v => writeF d v
  | none => trap c

/-- The effect of LDE, from the decoded slot (R602). -/
def Effect.ofEdwards (d : FReg) : Option (Fe × Bool) → Effect
  | some (y, sign) => writeFSign d y sign
  | none => trap .invalidEncoding

/-- The effect of RND, from the collaborator's answer (R502). -/
def Effect.ofAnswer (d : SReg) : RngAnswer → Effect
  | .ok b => answered d b
  | .fail => rngFailed
  | .silent => await

/-- The effect of an instruction. -/
def effect (i : Instr) (s : State) : Effect :=
  match i with
  | .halt => .halt
  | .nop => .nothing
  | .add d a b => .writeF d (fadd (s.readF a) (s.readF b))
  | .sub d a b => .writeF d (fsub (s.readF a) (s.readF b))
  | .mul d a b => .writeF d (fmul (s.readF a) (s.readF b))
  | .sqr d a => .writeF d (fmul (s.readF a) (s.readF a))
  | .neg d a => .writeF d (fneg (s.readF a))
  | .mov d a => .writeF d (s.readF a)
  | .ldc d k => .writeF d (rom k)
  | .inv d a => .writeF d (finv (s.readF a))
  | .sqrt d a => .writeOrTrap d .notASquare (fsqrt (s.readF a))
  | .csel d a b => .writeF d (select s.c (s.readF a) (s.readF b))
  | .cswap a b => if s.c then .swapF a b (s.readF b) (s.readF a) else .nothing
  | .ceq a b => .writeC (equalFlag (s.readF a) (s.readF b))
  | .cbitf a n => .writeC (fieldBit (s.readF a) n)
  | .cbits a n => .writeC (scalarBit (s.readS a) n)
  | .cflg m => .writeC (flagOfMode m s.c s.sg)
  | .m2e d a => .writeOrTrap d .invalidPoint (montToEd (s.readF a))
  | .e2m d a => .writeOrTrap d .invalidPoint (edToMont (s.readF a))
  | .clamp d a => .writeS d (clampBits (s.readS a))
  | .rnd d => .ofAnswer d s.rngAnswer
  | .ldu d k => .writeF d (decodeU (s.slotValue k))
  | .lde d k => .ofEdwards d (decodeEd s.strict (s.slotValue k))
  | .lds d k => .writeS d (BitVec.ofNat 256 (s.slotValue k))
  | .stf k r => .writeSlot k (s.readF r).val
  | .sts k r => .writeSlot k (s.readS r).toNat

/-- Writing a register with its own value changes nothing. -/
@[simp] theorem State.setF_readF (s : State) (r : FReg) : s.setF r (s.readF r) = s := by
  simp [State.setF, State.readF]

/-- Every instruction answers the state after its effect. -/
theorem exec_eq_effect (i : Instr) (s : State) : exec i s = .next ((effect i s).apply s) := by
  cases i
  case cswap a b =>
    rw [exec_cswap, effect]
    cases s.c
    · simp [select, Effect.apply, retireF]
    · simp [select, Effect.apply]
  case sqrt d a =>
    rw [effect]
    cases h : fsqrt (s.readF a) with
    | none => exact exec_sqrt_none s h
    | some r => exact exec_sqrt_some s h
  case m2e d a =>
    rw [effect]
    cases h : montToEd (s.readF a) with
    | none => exact exec_m2e_none s h
    | some r => exact exec_m2e_some s h
  case e2m d a =>
    rw [effect]
    cases h : edToMont (s.readF a) with
    | none => exact exec_e2m_none s h
    | some r => exact exec_e2m_some s h
  case rnd d =>
    rw [effect]
    cases h : s.rngAnswer with
    | ok b => exact exec_rnd_ok s h
    | fail => exact exec_rnd_fail s h
    | silent => exact exec_rnd_silent s h
  case lde d k =>
    rw [effect]
    cases h : decodeEd s.strict (s.slotValue k) with
    | none => exact exec_lde_none s h
    | some p => exact exec_lde_some s h
  all_goals rfl

theorem exec_next_iff {i : Instr} {s t : State} : exec i s = .next t ↔ t = (effect i s).apply s := by
  rw [exec_eq_effect, Host.Outcome.next.injEq, eq_comm]

/-! ### What the shapes of effect do -/

/-- The instruction completes, the run goes on: it is counted and pc moves on. -/
def Effect.retires : Effect → Bool
  | halt | trap _ | rngFailed | await => false
  | _ => true

/-- The effect is that of an RND. -/
def Effect.usesRng : Effect → Bool
  | answered .. | rngFailed | await => true
  | _ => false

/-- An effect that retires is counted, moves pc on, and leaves the control state alone. -/
theorem Effect.retired_of_retires {e : Effect} (h : e.retires = true) (s : State) :
    Retired s (e.apply s) ∧ SameControl s (e.apply s) := by
  cases e <;> simp_all [retires, apply, retireF, retireS, retireC, retireSlot, Retired, SameControl]

/-- Only the effects that retire do so: the others leave pc where it is. -/
theorem Effect.pc_of_not_retires {e : Effect} (h : e.retires = false) (s : State) : (e.apply s).pc = s.pc := by
  cases e <;> simp_all [retires, apply]

theorem Effect.retired_iff (e : Effect) (s : State) : Retired s (e.apply s) ↔ e.retires = true := by
  refine ⟨fun h => ?_, fun h => (retired_of_retires h s).1⟩
  by_contra hn
  have hpc := pc_of_not_retires (Bool.eq_false_iff.2 hn) s
  have hne : s.pc ≠ s.pc + 1 := by bv_omega
  exact hne (hpc.symm.trans h.1)

/-- No effect breaks the canonical form of DMEM. -/
theorem Effect.dmem_wf (e : Effect) {s : State} (h : Memory.wf dmemBytes s.dmem = true) :
    Memory.wf dmemBytes (e.apply s).dmem = true := by
  cases e
  case writeSlot k v => exact retireSlot_wf k v h
  all_goals simpa [apply, retireF, retireS, retireC] using h

/-- Of the effects that retire only an RND's changes the RNG port. -/
theorem Effect.sameRng {e : Effect} (h : e.usesRng = false) (s : State) : SameRng s (e.apply s) := by
  cases e <;> simp_all [usesRng, apply, retireF, retireS, retireC, retireSlot, SameRng]

/-- RND alone has the effects of an RND. -/
theorem effect_usesRng (i : Instr) (s : State) : (effect i s).usesRng = true ↔ ∃ d, i = .rnd d := by
  cases i
  case sqrt d a => cases h : fsqrt (s.readF a) <;> simp [effect, h, Effect.writeOrTrap, Effect.usesRng]
  case m2e d a => cases h : montToEd (s.readF a) <;> simp [effect, h, Effect.writeOrTrap, Effect.usesRng]
  case e2m d a => cases h : edToMont (s.readF a) <;> simp [effect, h, Effect.writeOrTrap, Effect.usesRng]
  case lde d k =>
    cases h : decodeEd s.strict (s.slotValue k) <;> simp [effect, h, Effect.ofEdwards, Effect.usesRng]
  case rnd d => cases h : s.rngAnswer <;> simp [effect, h, Effect.ofAnswer, Effect.usesRng]
  case cswap a b => cases h : s.c <;> simp [effect, h, Effect.usesRng]
  all_goals simp [effect, Effect.usesRng]

end Sys2Proof.Machine
end

section
/-! PROOFS. One cycle of the sequencer as an effect, and that every turn of every agent keeps the invariant. -/

namespace Sys2Proof.Machine

/-! ### The cycle as an effect -/

/-- `e` is what the sequencer's cycle does at `s` during a run: the trap of the fetch, the trap of the decoder, or the effect
of the fetched instruction (R650, R709). -/
inductive FetchedEffect (s : State) : Effect → Prop where
  | bound (hpc : s.pc.toNat = imemWords) : FetchedEffect s (.trap .fetchBound)
  | illegal (hpc : s.pc.toNat < imemWords) (hd : ∀ i, decode (s.imemWord s.pc.toNat) ≠ .ok i) :
      FetchedEffect s (.trap .illegalInstruction)
  | instr (i : Instr) (hpc : s.pc.toNat < imemWords) (hd : decode (s.imemWord s.pc.toNat) = .ok i) :
      FetchedEffect s (effect i s)

/-- Up to pc = 8192 the cycle of a run answers the state after its effect. -/
theorem seqStep_fetched {s : State} (hb : s.busy = true) (hpc : s.pc.toNat ≤ imemWords) :
    ∃ e, FetchedEffect s e ∧ seqStep s = .next (e.apply s) := by
  unfold seqStep
  rw [if_pos hb]
  split
  · next he => exact ⟨_, .bound he, rfl⟩
  · next hne =>
    have hlt : s.pc.toNat < imemWords := lt_of_le_of_ne hpc hne
    rw [if_pos hlt]
    cases hd : decode (s.imemWord s.pc.toNat) with
    | ok i => exact ⟨_, .instr i hlt hd, exec_eq_effect i s⟩
    | error r => exact ⟨_, .illegal hlt (by simp [hd]), rfl⟩

/-- Beyond pc = 8192 the cycle stops, so one that answers a next state is the effect it fetched. -/
theorem seqStep_busy_next {s t : State} (hb : s.busy = true) (h : seqStep s = .next t) :
    ∃ e, FetchedEffect s e ∧ t = e.apply s := by
  have hpc : s.pc.toNat ≤ imemWords := by
    by_contra hgt
    simp [seqStep, hb, (not_le.1 hgt).ne', (not_le.1 hgt).not_gt] at h
  obtain ⟨e, he, hs⟩ := seqStep_fetched hb hpc
  rw [hs, Host.Outcome.next.injEq] at h
  exact ⟨e, he, h.symm⟩

theorem seqStep_idle {s : State} (h : s.busy = false) : seqStep s = .next s := by
  simp [seqStep, h]

theorem FetchedEffect.pc_lt_of_retires {s : State} {e : Effect} (h : FetchedEffect s e) (hr : e.retires = true) :
    s.pc.toNat < imemWords := by
  cases h with
  | bound => cases hr
  | illegal => cases hr
  | instr i hpc => exact hpc

/-- An effect of an RND has an RND to come from. -/
theorem FetchedEffect.rnd_of_usesRng {s : State} {e : Effect} (h : FetchedEffect s e) (hr : e.usesRng = true) :
    s.pc.toNat < imemWords ∧ ∃ d, decode (s.imemWord s.pc.toNat) = .ok (.rnd d) := by
  cases h with
  | bound => cases hr
  | illegal => cases hr
  | instr i hpc hd =>
    obtain ⟨d, rfl⟩ := (effect_usesRng i s).1 hr
    exact ⟨hpc, d, hd⟩

/-- With a request in flight the cycle fetches an RND. -/
theorem FetchedEffect.usesRng_of_rngBusy {s : State} {e : Effect} (h : FetchedEffect s e) (hs : s.Inv)
    (hr : s.rngBusy = true) : e.usesRng = true := by
  obtain ⟨-, hlt, d, hrnd⟩ := hs.rng_run hr
  cases h with
  | bound hpc => omega
  | illegal hpc hd => exact absurd hrnd (hd _)
  | instr i hpc hd =>
    rw [hrnd] at hd
    injection hd with hd
    exact (effect_usesRng i s).2 ⟨d, hd.symm⟩

/-- The cause an instruction traps with is its own (R709). -/
theorem effect_trap {i : Instr} {s : State} {c : Cause} (h : effect i s = .trap c) : ownCause i = some c := by
  cases i
  case sqrt d a => cases hr : fsqrt (s.readF a) <;> simp_all [effect, Effect.writeOrTrap, ownCause]
  case m2e d a => cases hr : montToEd (s.readF a) <;> simp_all [effect, Effect.writeOrTrap, ownCause]
  case e2m d a => cases hr : edToMont (s.readF a) <;> simp_all [effect, Effect.writeOrTrap, ownCause]
  case lde d k => cases hr : decodeEd s.strict (s.slotValue k) <;> simp_all [effect, Effect.ofEdwards, ownCause]
  case rnd d => cases hr : s.rngAnswer <;> simp_all [effect, Effect.ofAnswer]
  case cswap a b => cases hc : s.c <;> simp_all [effect]
  all_goals cases h

theorem ownCause_ne_none {i : Instr} {c : Cause} (h : ownCause i = some c) : c ≠ .none := by
  rintro rfl
  cases i <;> cases h

theorem FetchedEffect.cause_ne_none {s : State} {c : Cause} (h : FetchedEffect s (.trap c)) : c ≠ .none := by
  generalize he : Effect.trap c = e at h
  cases h with
  | bound => cases he; decide
  | illegal => cases he; decide
  | instr i => exact ownCause_ne_none (effect_trap he.symm)

/-! ### The invariant and the shared operations -/

/-- The invariant does not read CTRL, HACC or the model's own fields, and DONE only where it is set. -/
theorem State.Inv.sideFields {s : State} (h : s.Inv) (ie strict done hacc : Bool) (answers : List RngAnswer)
    (draws reads : Nat) (data : Word) (ts : List Turn) (hd : s.busy = true → done = false) :
    State.Inv { s with
      ie := ie, strict := strict, done := done, hacc := hacc, rngAnswers := answers, rngDraws := draws
      busyReads := reads, hostData := data, turns := ts } :=
  ⟨h.dmem_wf, h.imem_wf, h.pc_le, h.pc_eq, hd, h.fault_iff, h.cause_idle, h.epc_none, h.epc_trap, h.pcCsr_le,
    h.idle, h.rng_run⟩

theorem State.Inv.popTurn {s : State} (h : s.Inv) : s.popTurn.Inv :=
  h.sideFields s.ie s.strict s.done s.hacc s.rngAnswers s.rngDraws s.busyReads s.hostData _ h.done_idle

theorem State.Inv.closeRequest {s : State} (h : s.Inv) : s.closeRequest.Inv :=
  ⟨h.dmem_wf, h.imem_wf, h.pc_le, h.pc_eq, h.done_idle, h.fault_iff, h.cause_idle, h.epc_none, h.epc_trap,
    h.pcCsr_le, h.idle, fun hr => nomatch hr⟩

theorem State.Inv.awaitRng {s : State} (h : s.Inv) (hb : s.busy = true) (hpc : s.pc.toNat < imemWords)
    (hd : ∃ d, decode (s.imemWord s.pc.toNat) = .ok (.rnd d)) : s.awaitRng.Inv :=
  ⟨h.dmem_wf, h.imem_wf, h.pc_le, h.pc_eq, h.done_idle, h.fault_iff, h.cause_idle, h.epc_none, h.epc_trap,
    h.pcCsr_le, h.idle, fun _ => ⟨hb, hpc, hd⟩⟩

theorem State.zeroized_endRun (s : State) (trapped : Bool) : (s.endRun trapped).Zeroized := by
  simp [State.Zeroized]

/-- A run ends well when CAUSE and EPC record how it ended. -/
theorem State.inv_endRun {s : State} {trapped : Bool} (hdm : Memory.wf dmemBytes s.dmem = true)
    (him : Memory.wf imemWords s.imem = true) (hpc : s.pc.toNat ≤ imemWords)
    (hcause : trapped = true ↔ s.cause ≠ .none) (hnone : s.cause = .none → s.epc = 0)
    (htrap : s.cause ≠ .none → s.epc = s.pc) (hrng : s.rngBusy = false) : (s.endRun trapped).Inv where
  dmem_wf := hdm
  imem_wf := him
  pc_le := hpc
  pc_eq := fun hb => nomatch hb
  done_idle := fun hb => nomatch hb
  fault_iff := hcause
  cause_idle := fun hb => nomatch hb
  epc_none := hnone
  epc_trap := htrap
  pcCsr_le := hpc
  idle := fun _ => ⟨rfl, s.zeroized_endRun trapped⟩
  rng_run := fun hr => absurd hr (ne_true_of_eq_false hrng)

theorem State.Inv.takeTrap {s : State} (h : s.Inv) {c : Cause} (hc : c ≠ .none) (hrng : s.rngBusy = false) :
    (s.takeTrap c).Inv :=
  State.inv_endRun (s := { s with cause := c, epc := s.pc }) h.dmem_wf h.imem_wf h.pc_le (iff_of_true rfl hc)
    (fun h => absurd h hc) (fun _ => rfl) hrng

theorem State.Inv.halt {s : State} (h : s.Inv) (hb : s.busy = true) (hrng : s.rngBusy = false) :
    (s.count.endRun false).Inv :=
  have hc := h.cause_idle hb
  State.inv_endRun (s := s.count) h.dmem_wf h.imem_wf h.pc_le (iff_of_false Bool.false_ne_true (· hc)) h.epc_none
    (absurd hc ·) hrng

/-- An instruction of a run that retires below 8192 keeps pc at ENTRY plus RETIRED (R109). -/
theorem State.Inv.retired {s t : State} (h : s.Inv) (hb : s.busy = true) (hpc : s.pc.toNat < imemWords)
    (hr : Retired s t) (hsame : SameControl s t) (hdm : Memory.wf dmemBytes t.dmem = true)
    (hrng : t.rngBusy = false) : t.Inv := by
  obtain ⟨htpc, htret⟩ := hr
  obtain ⟨himem, hentry, -, -, hbusy, hdone, hfault, -, hcause, hepc, hcsr, -⟩ := hsame
  have hpc' : t.pc.toNat = s.pc.toNat + 1 := by
    simp only [imemWords] at hpc
    rw [htpc]
    bv_omega
  have hret' : t.retired.toNat = s.retired.toNat + 1 := by
    have heq := h.pc_eq hb
    simp only [imemWords] at hpc
    rw [htret]
    bv_omega
  exact
    { dmem_wf := hdm
      imem_wf := himem ▸ h.imem_wf
      pc_le := by omega
      pc_eq := fun _ => by
        have heq := h.pc_eq hb
        rw [hentry]
        omega
      done_idle := fun _ => hdone.trans (h.done_idle hb)
      fault_iff := by rw [hfault, hcause]; exact h.fault_iff
      cause_idle := fun _ => hcause.trans (h.cause_idle hb)
      epc_none := by rw [hcause, hepc]; exact h.epc_none
      epc_trap := by rw [hcause, hepc, hcsr]; exact h.epc_trap
      pcCsr_le := hcsr ▸ h.pcCsr_le
      idle := fun hi => absurd (hbusy.trans hb) (ne_true_of_eq_false hi)
      rng_run := fun hr => absurd hr (ne_true_of_eq_false hrng) }

/-! ### The turns -/

/-- An effect that retires leaves no request in flight, where none was or the instruction is an RND. -/
theorem Effect.rngBusy_of_retires {e : Effect} {s : State} (hr : e.retires = true)
    (h : e.usesRng = false → s.rngBusy = false) : (e.apply s).rngBusy = false := by
  cases hu : e.usesRng
  · exact (Effect.sameRng hu s).1.trans (h hu)
  · cases e <;> simp_all [retires, usesRng, apply, retireS]

/-- The sequencer's cycle of a run keeps the invariant. -/
theorem State.Inv.apply {s : State} (h : s.Inv) (hb : s.busy = true) {e : Effect} (he : FetchedEffect s e) :
    (e.apply s).Inv := by
  have hrng : e.usesRng = false → s.rngBusy = false := fun hu =>
    Bool.eq_false_iff.2 fun hn => absurd (he.usesRng_of_rngBusy h hn) (ne_true_of_eq_false hu)
  cases hr : e.retires
  · cases e with
    | halt => exact h.halt hb (hrng rfl)
    | trap c => exact h.takeTrap he.cause_ne_none (hrng rfl)
    | rngFailed => exact h.closeRequest.takeTrap (by decide) rfl
    | await =>
      obtain ⟨hpc, hd⟩ := he.rnd_of_usesRng rfl
      exact h.awaitRng hb hpc hd
    | _ => cases hr
  · obtain ⟨hret, hsame⟩ := Effect.retired_of_retires hr s
    exact h.retired hb (he.pc_lt_of_retires hr) hret hsame (e.dmem_wf h.dmem_wf) (Effect.rngBusy_of_retires hr hrng)

theorem State.Inv.seqStep {s t : State} (h : s.Inv) (hs : seqStep s = .next t) : t.Inv := by
  cases hb : s.busy
  · rw [seqStep_idle hb, Host.Outcome.next.injEq] at hs
    exact hs ▸ h
  · obtain ⟨e, he, rfl⟩ := seqStep_busy_next hb hs
    exact h.apply hb he

theorem State.acceptStart_pc_toNat (s : State) : s.acceptStart.pc.toNat = s.entry.toNat := by
  have := s.entry.isLt
  rw [State.acceptStart_pc, BitVec.toNat_setWidth]
  omega

/-- An accepted START begins a run at ENTRY with nothing counted (R805). -/
theorem State.Inv.acceptStart {s : State} (h : s.Inv) (hi : s.busy = false) : s.acceptStart.Inv where
  dmem_wf := h.dmem_wf
  imem_wf := h.imem_wf
  pc_le := by
    have := s.entry.isLt
    rw [State.acceptStart_pc_toNat, imemWords]
    omega
  pc_eq := fun _ => s.acceptStart_pc_toNat
  done_idle := fun _ => rfl
  fault_iff := iff_of_false Bool.false_ne_true (· rfl)
  cause_idle := fun _ => rfl
  epc_none := fun _ => rfl
  epc_trap := fun hc => absurd rfl hc
  pcCsr_le := h.pcCsr_le
  idle := fun hb => nomatch hb
  rng_run := fun hr => absurd (h.rng_run hr).1 (ne_true_of_eq_false hi)

/-- While idle the memories and ENTRY may be written: no run reads them. -/
theorem State.Inv.idleWrite {s : State} (h : s.Inv) (hi : s.busy = false) (entry : BitVec 13) {imem : Memory 32}
    {dmem : List Host.Cell} (him : Memory.wf imemWords imem = true) (hdm : Memory.wf dmemBytes dmem = true) :
    State.Inv { s with entry := entry, imem := imem, dmem := dmem } :=
  ⟨hdm, him, h.pc_le, fun hb => absurd hb (ne_true_of_eq_false hi), h.done_idle, h.fault_iff, h.cause_idle,
    h.epc_none, h.epc_trap, h.pcCsr_le, h.idle,
    fun hr => absurd (h.rng_run hr).1 (ne_true_of_eq_false hi)⟩

/-! What a write of CTRL or ENTRY does, idle or not (R114 to R117, R126). -/

theorem State.writeCtrl_busy {s : State} (h : s.busy = true) (w : Word) : s.writeCtrl w =
    { s with ie := w.getLsbD 1, hacc := s.hacc || w.getLsbD 0 || (w.getLsbD 2 != s.strict) } :=
  if_pos h

theorem State.writeCtrl_start {s : State} (h : s.busy = false) {w : Word} (hw : w.getLsbD 0 = true) :
    s.writeCtrl w = State.acceptStart { s with ie := w.getLsbD 1, strict := w.getLsbD 2 } := by
  rw [State.writeCtrl, if_neg (by simp [h]), if_pos hw]

theorem State.writeCtrl_idle {s : State} (h : s.busy = false) {w : Word} (hw : w.getLsbD 0 = false) :
    s.writeCtrl w = { s with ie := w.getLsbD 1, strict := w.getLsbD 2 } := by
  rw [State.writeCtrl, if_neg (by simp [h]), if_neg (Bool.eq_false_iff.1 hw)]

theorem State.writeEntry_busy {s : State} (h : s.busy = true) (w : Word) : s.writeEntry w = { s with hacc := true } :=
  if_pos h

theorem State.writeEntry_idle {s : State} (h : s.busy = false) (w : Word) :
    s.writeEntry w = { s with entry := w.setWidth 13 } :=
  if_neg (by simp [h])

theorem State.memWrite_eq (s : State) (a n v : Nat) :
    s.memWrite a n v = { s with dmem := (s.memWrite a n v).dmem } := by
  induction n generalizing s a v with
  | zero => rfl
  | succ n ih => exact ih (s.setByte a (BitVec.ofNat 8 v)) (a + 1) (v / 256)

/-- A write of a CSR while idle keeps the invariant. -/
theorem State.Inv.csrWrite_idle {s : State} (h : s.Inv) (hi : s.busy = false) (r : Csr) (w : Word) :
    (s.csrWrite r w).Inv := by
  cases r with
  | ctrl =>
    have hset := h.sideFields (w.getLsbD 1) (w.getLsbD 2) s.done s.hacc s.rngAnswers s.rngDraws s.busyReads s.hostData
      s.turns h.done_idle
    show (s.writeCtrl w).Inv
    cases hw : w.getLsbD 0
    · exact State.writeCtrl_idle hi hw ▸ hset
    · exact State.writeCtrl_start hi hw ▸ hset.acceptStart hi
  | status =>
    exact h.sideFields s.ie s.strict _ _ s.rngAnswers s.rngDraws s.busyReads s.hostData s.turns
      fun hb => by simp [h.done_idle hb]
  | entry =>
    show (s.writeEntry w).Inv
    exact State.writeEntry_idle hi w ▸ h.idleWrite hi (w.setWidth 13) h.imem_wf h.dmem_wf
  | id | cause | epc | pc | retired => exact h

/-- A host write while idle keeps the invariant. -/
theorem State.Inv.hostWrite_idle {s : State} (h : s.Inv) (hi : s.busy = false) (ha : BitVec 16) (w : Word) :
    (s.hostWrite ha w).Inv := by
  unfold State.hostWrite
  cases ht : hostTarget ha with
  | csr r => exact h.csrWrite_idle hi r w
  | dmem a =>
    simp only [hi, Bool.false_eq_true, if_false]
    rw [State.memWrite_eq]
    exact h.idleWrite hi s.entry h.imem_wf (State.memWrite_wf _ h.dmem_wf (hostTarget_dmem_lt ht))
  | imem i =>
    simp only [hi, Bool.false_eq_true, if_false]
    exact h.idleWrite hi s.entry (Memory.wf_set w h.imem_wf (hostTarget_imem_lt ht)) h.dmem_wf
  | unmapped => exact h

theorem State.Inv.hostStep {s : State} (h : s.Inv) (a : HostAccess) : (s.hostStep a).Inv := by
  cases hb : s.busy
  · cases a with
    | read ha =>
      exact h.sideFields s.ie s.strict s.done _ s.rngAnswers s.rngDraws _ _ s.turns h.done_idle
    | write ha w => exact h.hostWrite_idle hb ha w
  · obtain ⟨heq, hdone⟩ := hostStep_busy hb (a := a) rfl
    rw [heq]
    exact h.sideFields _ s.strict _ _ s.rngAnswers s.rngDraws _ _ s.turns fun _ => hdone (h.done_idle hb)

/-- A store that a reset cuts stays within DMEM. -/
theorem State.cutStore_wf {s : State} (h : Memory.wf dmemBytes s.dmem = true) (cut : BitVec 32) :
    Memory.wf dmemBytes (s.cutStore cut).dmem = true := by
  unfold State.cutStore
  split
  · exact State.memWriteCut_wf cut 0 _ h (slotOffset_le _)
  · exact h

theorem State.zeroized_reset : State.reset.Zeroized := by
  simp [State.Zeroized, State.readF, State.readS, State.reset, feZero]

/-- Reset answers the invariant wherever the memories are in canonical form. -/
theorem State.inv_assertReset {s : State} (hdm : Memory.wf dmemBytes s.dmem = true)
    (him : Memory.wf imemWords s.imem = true) (cut : BitVec 32) : (s.assertReset cut).Inv where
  dmem_wf := State.cutStore_wf hdm cut
  imem_wf := him
  pc_le := Nat.zero_le _
  pc_eq := fun hb => nomatch hb
  done_idle := fun _ => rfl
  fault_iff := iff_of_false Bool.false_ne_true (· rfl)
  cause_idle := fun _ => rfl
  epc_none := fun _ => rfl
  epc_trap := fun _ => rfl
  pcCsr_le := Nat.zero_le _
  idle := fun _ => ⟨rfl, State.zeroized_reset⟩
  rng_run := fun hr => nomatch hr

/-- What a step did, by whose turn it was (R16). -/
theorem step_cases {s t : State} (h : step s = .next t) :
    (s.turn = .sequencer ∧ seqStep s.popTurn = .next t) ∨ (∃ a, s.turn = .host a ∧ s.popTurn.hostStep a = t) ∨
      ∃ cut, s.turn = .reset cut ∧ s.popTurn.assertReset cut = t := by
  rw [step, takeTurn] at h
  cases hturn : s.turn <;> simp_all

/-- Settles O9: the cycle, the host port and reset each keep every clause. -/
theorem everyStepKeepsInvariant : Obligations.EveryStepKeepsInvariant := by
  unfold Obligations.EveryStepKeepsInvariant
  intro s t h hs
  obtain ⟨-, hs⟩ | ⟨a, -, rfl⟩ | ⟨cut, -, rfl⟩ := step_cases hs
  · exact h.popTurn.seqStep hs
  · exact h.popTurn.hostStep a
  · exact State.inv_assertReset h.popTurn.dmem_wf h.popTurn.imem_wf cut

/-- Settles O11: pc stays within 8192, where every cycle answers. -/
theorem invariantStatesNeverStop : Obligations.InvariantStatesNeverStop := by
  unfold Obligations.InvariantStatesNeverStop
  intro s h
  rw [step, takeTurn]
  cases s.turn with
  | sequencer =>
    cases hb : s.popTurn.busy
    · exact ⟨_, seqStep_idle hb⟩
    · obtain ⟨e, -, hs⟩ := seqStep_fetched hb h.popTurn.pc_le
      exact ⟨_, hs⟩
  | host a => exact ⟨_, rfl⟩
  | reset cut => exact ⟨_, rfl⟩

end Sys2Proof.Machine
end

section
/-! PROOFS. What an instruction reads and writes (R103, R105, R107, R108): the registers of the access tables alone. -/

namespace Sys2Proof.Machine

/-! ### What an effect writes -/

/-- The field registers an effect writes. -/
def Effect.fields : Effect → List FReg
  | writeF d _ | writeFSign d _ _ => [d]
  | swapF a b _ _ => [a, b]
  | _ => []

/-- The scalar registers an effect writes. -/
def Effect.scalars : Effect → List SReg
  | writeS d _ | answered d _ => [d]
  | _ => []

/-- The effect writes C. -/
def Effect.setsC : Effect → Bool
  | writeC _ => true
  | _ => false

/-- The effect writes SG. -/
def Effect.setsSG : Effect → Bool
  | writeFSign .. => true
  | _ => false

/-- The slot an effect writes. -/
def Effect.slot : Effect → Option Slot
  | writeSlot k _ => some k
  | _ => none

/-- What an effect writes is what the access tables say of the instruction. -/
structure Effect.Fits (e : Effect) (c : Bool) (i : Instr) : Prop where
  fields : e.fields = writesF c i
  scalars : e.scalars = writesS i
  setsC : e.setsC = writesC i
  setsSG : e.setsSG = writesSG i
  slot : e.slot = writesSlot i

theorem Effect.fits_writeOrTrap {d : FReg} {c : Cause} {x : Option Fe} {b : Bool} {i : Instr}
    (hr : (writeOrTrap d c x).retires = true) (h : ∀ v, (writeF d v).Fits b i) : (writeOrTrap d c x).Fits b i := by
  cases x with
  | none => cases hr
  | some v => exact h v

/-- An instruction that retires writes what its rows of the access tables say (R103, R105, R107, R108). -/
theorem effect_fits {i : Instr} {s : State} (hr : (effect i s).retires = true) : (effect i s).Fits s.c i := by
  cases i
  case sqrt d a =>
    rw [effect] at hr ⊢
    exact Effect.fits_writeOrTrap hr fun _ => ⟨rfl, rfl, rfl, rfl, rfl⟩
  case m2e d a =>
    rw [effect] at hr ⊢
    exact Effect.fits_writeOrTrap hr fun _ => ⟨rfl, rfl, rfl, rfl, rfl⟩
  case e2m d a =>
    rw [effect] at hr ⊢
    exact Effect.fits_writeOrTrap hr fun _ => ⟨rfl, rfl, rfl, rfl, rfl⟩
  case lde d k =>
    rw [effect] at hr ⊢
    cases hv : decodeEd s.strict (s.slotValue k) with
    | none => rw [hv] at hr; cases hr
    | some p => exact ⟨rfl, rfl, rfl, rfl, rfl⟩
  case rnd d =>
    rw [effect] at hr ⊢
    cases ha : s.rngAnswer with
    | ok b => exact ⟨rfl, rfl, rfl, rfl, rfl⟩
    | fail | silent => rw [ha] at hr; cases hr
  case cswap a b =>
    rw [effect]
    cases s.c <;> exact ⟨rfl, rfl, rfl, rfl, rfl⟩
  case halt => cases hr
  all_goals exact ⟨rfl, rfl, rfl, rfl, rfl⟩

/-! ### What an effect leaves alone, and that what it writes does not depend on the state -/

section

variable {e : Effect} (h : e.retires = true) (s s' : State)
include h

theorem Effect.readF_apply_of_not_mem {r : FReg} (hr : r ∉ e.fields) : (e.apply s).readF r = s.readF r := by
  cases e <;> simp_all [fields, retires, apply, retireF, retireS, retireC, retireSlot]

theorem Effect.readS_apply_of_not_mem {r : SReg} (hr : r ∉ e.scalars) : (e.apply s).readS r = s.readS r := by
  cases e <;> simp_all [scalars, retires, apply, retireF, retireS, retireC, retireSlot]

theorem Effect.c_apply_of_not_setsC (hc : e.setsC = false) : (e.apply s).c = s.c := by
  cases e <;> simp_all [setsC, retires, apply, retireF, retireS, retireSlot]

theorem Effect.sg_apply_of_not_setsSG (hg : e.setsSG = false) : (e.apply s).sg = s.sg := by
  cases e <;> simp_all [setsSG, retires, apply, retireF, retireS, retireC, retireSlot]

omit h

theorem Effect.readF_apply_congr {r : FReg} (hr : r ∈ e.fields) : (e.apply s').readF r = (e.apply s).readF r := by
  cases e with
  | writeF d v | writeFSign d v sign => simp_all [fields, apply, retireF]
  | swapF a b va vb =>
    have hr : r = a ∨ r = b := by simpa [fields] using hr
    by_cases hb : r = b <;> simp_all [apply, retireF]
  | _ => cases hr

theorem Effect.readS_apply_congr {r : SReg} (hr : r ∈ e.scalars) : (e.apply s').readS r = (e.apply s).readS r := by
  cases e <;> simp_all [scalars, apply, retireS]

theorem Effect.c_apply_congr (hc : e.setsC = true) : (e.apply s').c = (e.apply s).c := by
  cases e <;> simp_all [setsC, apply, retireC]

theorem Effect.sg_apply_congr (hg : e.setsSG = true) : (e.apply s').sg = (e.apply s).sg := by
  cases e <;> simp_all [setsSG, apply, retireF]

theorem Effect.dmemByte_apply_congr {k : Slot} (hk : e.slot = some k) {a : Nat} (hlo : slotOffset k ≤ a)
    (hhi : a < slotOffset k + 32) : (e.apply s').dmemByte a = (e.apply s).dmemByte a := by
  obtain ⟨j, rfl⟩ := Nat.exists_eq_add_of_le hlo
  cases e with
  | writeSlot k' v =>
    obtain rfl : k' = k := by simpa [slot] using hk
    rw [apply, apply, retireSlot_byte _ _ _ _ (by omega), retireSlot_byte _ _ _ _ (by omega)]
  | _ => cases hk

end

/-! ### What an instruction reads -/

/-- `s` and `s'` agree on all that `i` reads: its registers and flags of the access tables, STRICT, DMEM and the RNG's answer. -/
structure AgreeOnReads (i : Instr) (s s' : State) : Prop where
  fields : ∀ r, r ∈ readsF i → s'.readF r = s.readF r
  scalars : ∀ r, r ∈ readsS i → s'.readS r = s.readS r
  c : readsC i = true → s'.c = s.c
  sg : readsSG i = true → s'.sg = s.sg
  strict : s'.strict = s.strict
  memory : SameMemory s s'
  answer : s'.rngAnswer = s.rngAnswer

theorem slotValue_congr {s s' : State} (h : SameMemory s s') (k : Slot) : s'.slotValue k = s.slotValue k :=
  State.memRead_congr fun a _ _ => h a

theorem flagOfMode_congr {m : CflgMode} {c c' sg sg' : Bool} (hc : m = .not → c' = c) (hsg : m = .sg → sg' = sg) :
    flagOfMode m c' sg' = flagOfMode m c sg := by
  cases m with
  | zero | one => rfl
  | sg => exact hsg rfl
  | not => exact congrArg (!·) (hc rfl)

/-- The effect of an instruction is a function of what the access tables let it read (R103, R105, R107, R108). -/
theorem effect_congr {i : Instr} {s s' : State} (h : AgreeOnReads i s s') : effect i s' = effect i s := by
  obtain ⟨hf, hs, hc, hsg, hstrict, hmem, hans⟩ := h
  cases i
  case cflg m =>
    rw [effect, effect, flagOfMode_congr (fun hm => hc (by simp [readsC, hm])) fun hm => hsg (by simp [readsSG, hm])]
  all_goals simp_all [effect, readsF, readsS, readsC, slotValue_congr hmem]

/-- Settles O14: an instruction that retires has one effect, which writes what the tables say (`effect_fits`) and is
fixed by what they say it reads (`effect_congr`). -/
theorem registerAccessTables : Obligations.RegisterAccessTables := by
  unfold Obligations.RegisterAccessTables
  simp only [exec_next_iff]
  constructor
  · rintro i s t rfl hret
    have hr := (Effect.retired_iff _ s).1 hret
    have hfit := effect_fits hr
    exact ⟨fun r hn => Effect.readF_apply_of_not_mem hr s (hfit.fields ▸ hn),
      fun r hn => Effect.readS_apply_of_not_mem hr s (hfit.scalars ▸ hn),
      fun hn => Effect.c_apply_of_not_setsC hr s (hfit.setsC.trans hn),
      fun hn => Effect.sg_apply_of_not_setsSG hr s (hfit.setsSG.trans hn)⟩
  · rintro i s s' t t' rfl rfl hret hf hs hc hsg hstrict hmem hans
    have hr := (Effect.retired_iff _ s).1 hret
    have hfit := effect_fits hr
    rw [effect_congr ⟨hf, hs, hc, hsg, hstrict, hmem, hans⟩]
    exact ⟨(Effect.retired_iff _ s').2 hr,
      fun r hm => Effect.readF_apply_congr s s' (hfit.fields ▸ hm),
      fun r hm => Effect.readS_apply_congr s s' (hfit.scalars ▸ hm),
      fun hm => Effect.c_apply_congr s s' (hfit.setsC.trans hm),
      fun hm => Effect.sg_apply_congr s s' (hfit.setsSG.trans hm),
      fun k hk a hlo hhi => Effect.dmemByte_apply_congr s s' (hfit.slot.trans hk) hlo hhi⟩

end Sys2Proof.Machine
end

section
/-! PROOFS. What a run keeps and how it ends: STRICT and ENTRY (R116, R126), zeroization (R130, R707, R806) and the
request of an RND (R131, R502). -/

namespace Sys2Proof.Machine

/-- What the state after an effect is to the state before: the instruction retired, the run ended, or it awaits the RNG. -/
theorem Effect.apply_cases (e : Effect) (s : State) :
    (Retired s (e.apply s) ∧ SameControl s (e.apply s)) ∨ Halted s (e.apply s) ∨ (∃ c, Trapped c s (e.apply s)) ∨
      e.apply s = s.awaitRng := by
  cases e with
  | halt =>
    obtain ⟨hend, hfault⟩ := endRun_spec s.count false
    exact .inr (.inl ⟨hend, rfl, hfault, rfl, rfl⟩)
  | trap c => exact .inr (.inr (.inl ⟨c, takeTrap_spec s c⟩))
  | rngFailed => exact .inr (.inr (.inl ⟨_, takeTrap_spec s.closeRequest .rngFailure⟩))
  | await => exact .inr (.inr (.inr rfl))
  | _ => exact .inl (retired_of_retires rfl s)

theorem Effect.strict_apply (e : Effect) (s : State) : (e.apply s).strict = s.strict := by
  cases e <;> simp [apply, retireF, retireS, retireC, retireSlot]

theorem Effect.entry_apply (e : Effect) (s : State) : (e.apply s).entry = s.entry := by
  cases e <;> simp [apply, retireF, retireS, retireC, retireSlot]

/-- Settles O17: no effect writes STRICT or ENTRY, and a host access during a run does not either (`hostStep_busy`). -/
theorem strictAndEntryAreConstantDuringRun : Obligations.StrictAndEntryAreConstantDuringRun := by
  unfold Obligations.StrictAndEntryAreConstantDuringRun
  intro s t hb hreset hs
  obtain ⟨-, hseq⟩ | ⟨a, -, hhost⟩ | ⟨cut, hcut, -⟩ := step_cases hs
  · obtain ⟨e, -, rfl⟩ := seqStep_busy_next (s := s.popTurn) hb hseq
    exact ⟨e.strict_apply _, e.entry_apply _⟩
  · obtain ⟨heq, -⟩ := hostStep_busy (s := s.popTurn) hb hhost
    rw [heq]
    exact ⟨rfl, rfl⟩
  · exact absurd hcut (hreset cut)

/-- Settles O18: of the effects only HALT and the traps end a run, and each of them zeroizes (`endRun_spec`, `takeTrap_spec`). -/
theorem runEndZeroizesRegisters : Obligations.RunEndZeroizesRegisters := by
  unfold Obligations.RunEndZeroizesRegisters
  intro s t hb hturn hs hend
  rw [step_sequencer hturn] at hs
  obtain ⟨e, -, rfl⟩ := seqStep_busy_next (s := s.popTurn) hb hs
  rcases e.apply_cases s.popTurn with ⟨-, hsame⟩ | hhalt | ⟨c, htrap⟩ | hawait
  · obtain ⟨-, -, -, -, hbusy, -⟩ := hsame
    exact absurd (hbusy.trans hb) (ne_true_of_eq_false hend)
  · obtain ⟨⟨hzero, hdone, -, hcsr, -, hmem, -⟩, hret, hfault, -⟩ := hhalt
    exact ⟨hzero, hdone, hcsr, hmem, fun _ => hret, fun h => absurd h (ne_true_of_eq_false hfault)⟩
  · obtain ⟨⟨hzero, hdone, -, hcsr, -, hmem, -⟩, -, hepc, hfault, hret⟩ := htrap
    exact ⟨hzero, hdone, hcsr, hmem, fun h => absurd hfault (ne_true_of_eq_false h), fun _ => ⟨hret, hepc⟩⟩
  · rw [hawait] at hend
    exact absurd hb (ne_true_of_eq_false hend)

/-- Settles O50: the three answers of the collaborator, one by one. -/
theorem rndMakesOneRequest : Obligations.RndMakesOneRequest := by
  unfold Obligations.RndMakesOneRequest
  intro d s
  cases ha : s.rngAnswer with
  | ok b => exact ⟨fun _ => ⟨_, exec_rnd_ok s ha, rfl, rfl, rfl⟩, nofun⟩
  | fail => exact ⟨fun _ => ⟨_, exec_rnd_fail s ha, rfl, rfl, rfl⟩, nofun⟩
  | silent => exact ⟨fun hn => absurd rfl hn, fun _ => exec_rnd_silent s ha⟩

/-! ### The final count -/

theorem runOut_succ {s t : State} (h : seqStep s = .next t) (n : Nat) :
    runOut (n + 1) s = if t.pc = s.pc then t else runOut n t := by
  rw [runOut, h]

/-- A cycle of a run keeps the final count, and is its RETIRED when it ends the run: the count is taken where the run comes
to rest, and one cycle fewer is left of it at a pc one further on (R127). -/
theorem finalCount_seqStep {s t : State} (hb : s.busy = true) (hpc : s.pc.toNat ≤ imemWords) (h : seqStep s = .next t) :
    (t.busy = true → t.finalCount = s.finalCount) ∧ (t.busy = false → t.retired.toNat = s.finalCount) := by
  obtain ⟨n, hn⟩ : ∃ n, imemWords + 1 - s.pc.toNat = n + 1 := ⟨imemWords - s.pc.toNat, by omega⟩
  have hs : s.finalCount = (if t.pc = s.pc then t else runOut n t).retired.toNat := by
    rw [State.finalCount, hn, runOut_succ h]
  obtain ⟨hnext, -, hbusy⟩ | ⟨hstay, hend⟩ | ⟨rfl, hagain⟩ := seqStep_busy hb h
  · have hne : t.pc ≠ s.pc := fun he => by rw [he] at hnext; omega
    refine ⟨fun _ => ?_, fun hend => absurd hbusy (ne_true_of_eq_false hend)⟩
    rw [hs, if_neg hne, State.finalCount, hnext, show imemWords + 1 - (s.pc.toNat + 1) = n by omega]
  · exact ⟨fun hbusy => absurd hbusy (ne_true_of_eq_false hend), fun _ => by rw [hs, if_pos hstay]⟩
  · refine ⟨fun _ => ?_, fun hend => absurd hb (ne_true_of_eq_false hend)⟩
    rw [hs, if_pos (State.awaitRng_pc s), State.finalCount, State.awaitRng_pc, hn, runOut_succ hagain, if_pos rfl]

/-- A host access during a run keeps the final count, DONE being 0 then (R119, R217). -/
theorem finalCount_hostStep {s t : State} (hb : s.busy = true) (hd : s.done = false) {a : HostAccess}
    (h : s.hostStep a = t) : t.busy = true ∧ t.finalCount = s.finalCount := by
  obtain ⟨heq, hdone⟩ := hostStep_busy hb h
  have hside : t = s.withHostSide t.ie t.hacc t.busyReads t.hostData s.turns := by
    rw [hdone hd, ← hd] at heq
    exact heq
  rw [hside]
  exact ⟨hb, finalCount_withHostSide ..⟩

/-- A turn of a run but a reset keeps the final count, and is its RETIRED when it ends the run. -/
theorem finalCount_step {s t : State} (hinv : s.Inv) (hb : s.busy = true) (hreset : ∀ cut, s.turn ≠ .reset cut)
    (hs : step s = .next t) :
    (t.busy = true → t.finalCount = s.finalCount) ∧ (t.busy = false → t.retired.toNat = s.finalCount) := by
  rw [← finalCount_popTurn s]
  obtain ⟨-, hseq⟩ | ⟨a, -, hhost⟩ | ⟨cut, hcut, -⟩ := step_cases hs
  · exact finalCount_seqStep hb hinv.popTurn.pc_le hseq
  · obtain ⟨hbusy, hcount⟩ := finalCount_hostStep (s := s.popTurn) hb (hinv.popTurn.done_idle hb) hhost
    exact ⟨fun _ => hcount, fun hend => absurd hbusy (ne_true_of_eq_false hend)⟩
  · exact absurd hcut (hreset cut)

end Sys2Proof.Machine
end

section
/-! PROOFS. The CSRs: what the host reads of them and what its writes do (R110 to R128). -/

namespace Sys2Proof.Machine

/-! ### A host access to a CSR -/

theorem State.readValue_csr (s : State) {ha : BitVec 16} {n : Nat} (hn : n < 8) (h : ha.toNat / 4 = n) :
    s.readValue ha = s.csrRead (csrAt n) := by
  rw [State.readValue, hostTarget_csr hn h]

theorem step_csrWrite {s : State} {ha : BitVec 16} {w : Word} {ts : List Turn} {n : Nat}
    (hs : s.turns = .host (.write ha w) :: ts) (hn : n < 8) (h : ha.toNat / 4 = n) :
    step s = .next (State.csrWrite { s with turns := ts } (csrAt n) w) := by
  rw [step_host hs, State.hostStep, State.hostWrite, hostTarget_csr hn h]

theorem csrAt_eq_retired : ∀ n < 8, csrAt n = .retired → n = 7 := by decide

/-- RETIRED is the CSR at word 7 (R110). -/
theorem word_of_hostTarget_retired {ha : BitVec 16} (h : hostTarget ha = .csr .retired) : ha.toNat / 4 = 7 := by
  have hlt : ha.toNat / 4 < 8 := by
    by_contra hge
    simp only [hostTarget] at h
    rw [if_neg (by omega)] at h
    split at h
    · cases h
    · split at h <;> cases h
  rw [hostTarget_csr hlt rfl, HostTarget.csr.injEq] at h
  exact csrAt_eq_retired _ hlt h

/-- `t` agrees with `s` on all that a host read can show: the CSRs, the memories and which free values come next. -/
structure SameHostView (s t : State) : Prop where
  ie : t.ie = s.ie
  strict : t.strict = s.strict
  busy : t.busy = s.busy
  done : t.done = s.done
  faulted : t.faulted = s.faulted
  hacc : t.hacc = s.hacc
  cause : t.cause = s.cause
  epc : t.epc = s.epc
  pcCsr : t.pcCsr = s.pcCsr
  entry : t.entry = s.entry
  retired : t.retired = s.retired
  busyReads : t.busyReads = s.busyReads
  imem : t.imem = s.imem
  dmem : t.dmem = s.dmem
  powerOn : t.powerOn = s.powerOn

theorem State.dmemByte_congr {s t : State} (hd : t.dmem = s.dmem) (hp : t.powerOn = s.powerOn) (a : Nat) :
    t.dmemByte a = s.dmemByte a := by
  simp only [State.dmemByte, hd, hp]

/-- The word a host read answers is a function of that view, and for RETIRED during a run of the final count (R127). -/
theorem SameHostView.readValue_eq {s t : State} (h : SameHostView s t) {ha : BitVec 16}
    (hcount : hostTarget ha = .csr .retired → s.busy = true → t.finalCount = s.finalCount) :
    t.readValue ha = s.readValue ha := by
  unfold State.readValue
  cases ht : hostTarget ha with
  | csr r =>
    cases r with
    | retired =>
      cases hb : s.busy
      · simp [State.csrRead, State.retiredRead, h.busy, hb, h.retired]
      · simp [State.csrRead, State.retiredRead, h.busy, hb, h.busyReads, hcount ht hb]
    | _ =>
      simp [State.csrRead, State.ctrlWord, State.statusWord, State.pcRead, h.ie, h.strict, h.busy, h.done, h.faulted,
        h.hacc, h.cause, h.epc, h.pcCsr, h.entry, h.busyReads]
  | dmem a =>
    have hword : t.dmemWord a = s.dmemWord a :=
      congrArg (BitVec.ofNat 32) (State.memRead_congr fun b _ _ => State.dmemByte_congr h.dmem h.powerOn b)
    simp [h.busy, hword]
  | imem i => simp [State.imemWord, h.busy, h.imem, h.powerOn]
  | unmapped => rfl

theorem State.readValue_setTurns (s : State) (ts : List Turn) (ha : BitVec 16) :
    State.readValue { s with turns := ts } ha = s.readValue ha :=
  SameHostView.readValue_eq (s := s) (t := { s with turns := ts })
    ⟨rfl, rfl, rfl, rfl, rfl, rfl, rfl, rfl, rfl, rfl, rfl, rfl, rfl, rfl, rfl⟩
    fun _ _ => finalCount_withHostSide s s.ie s.hacc s.busyReads s.hostData ts

/-- A host read of a CSR answers its value and changes nothing else of the core (R112). -/
theorem step_csrRead {s : State} {ha : BitVec 16} {ts : List Turn} {n : Nat} (hs : s.turns = .host (.read ha) :: ts)
    (hn : n < 8) (h : ha.toNat / 4 = n) :
    ∃ t, step s = .next t ∧ t.hostData = s.csrRead (csrAt n) ∧
      { t with hostData := s.hostData, busyReads := s.busyReads, turns := s.turns } = s := by
  refine ⟨_, step_host hs, ?_, ?_⟩
  · exact (s.readValue_setTurns ts ha).trans (s.readValue_csr hn h)
  · simp [State.hostStep, State.hostRead, State.memoryConflict, hostTarget_csr hn h]

/-! ### The bits of the CSRs -/

/-- A bit that is set lies below the width of a bound. -/
theorem le_of_getLsbD {w : Word} {n k : Nat} (hw : w.toNat < 2 ^ (k + 1)) (h : w.getLsbD n = true) : n ≤ k := by
  have hge : 2 ^ n ≤ w.toNat := Nat.ge_two_pow_of_testBit h
  have := (Nat.pow_lt_pow_iff_right (by decide)).1 (lt_of_le_of_lt hge hw)
  omega

theorem State.ctrlWord_bits (s : State) : s.ctrlWord.toNat < 2 ^ 3 ∧ s.ctrlWord.getLsbD 0 = false ∧
    s.ctrlWord.getLsbD 1 = s.ie ∧ s.ctrlWord.getLsbD 2 = s.strict := by
  unfold State.ctrlWord
  cases s.ie <;> cases s.strict <;> decide

theorem State.statusWord_bits (s : State) : s.statusWord.toNat < 2 ^ 4 ∧ s.statusWord.getLsbD 0 = s.busy ∧
    s.statusWord.getLsbD 1 = s.done ∧ s.statusWord.getLsbD 2 = s.faulted ∧ s.statusWord.getLsbD 3 = s.hacc := by
  unfold State.statusWord
  cases s.busy <;> cases s.done <;> cases s.faulted <;> cases s.hacc <;> decide

theorem State.pcRead_idle {s : State} (h : s.busy = false) : s.pcRead.toNat = s.pcCsr.toNat := by
  have := s.pcCsr.isLt
  simp [State.pcRead, h]
  omega

theorem State.pcRead_busy {s : State} (h : s.busy = true) : s.pcRead.toNat ≤ imemWords := by
  have := Nat.mod_lt (Config.busyPc s.busyReads) (show imemWords + 1 > 0 by decide)
  simp only [State.pcRead, h, if_true, BitVec.toNat_ofNat]
  exact (Nat.mod_le _ _).trans (by omega)

theorem State.pcRead_lt (s : State) : s.pcRead.toNat < 2 ^ 14 := by
  cases h : s.busy
  · exact State.pcRead_idle h ▸ s.pcCsr.isLt
  · exact lt_of_le_of_lt (State.pcRead_busy h) (by decide)

theorem Cause.code_lt (c : Cause) : (c.code.setWidth 32).toNat < 2 ^ 4 := by
  cases c <;> decide

/-- Settles O27: each read value is below the power of two above its highest named bit, and the writes read named bits. -/
theorem reservedCsrBits : Obligations.ReservedCsrBits := by
  unfold Obligations.ReservedCsrBits
  refine ⟨fun s n => ⟨fun h => ?_, fun h => ?_, fun h => ?_, fun h => ?_, fun h => ?_, fun h => ?_⟩,
    fun s w w' => ⟨fun h => ?_, fun h => ?_, fun h => ?_⟩⟩
  · obtain ⟨hlt, h0, -⟩ := s.ctrlWord_bits
    have hle := le_of_getLsbD hlt h
    have hne : n ≠ 0 := by
      rintro rfl
      exact absurd h (ne_true_of_eq_false h0)
    omega
  · exact le_of_getLsbD s.statusWord_bits.1 h
  · exact le_of_getLsbD s.cause.code_lt h
  · exact le_of_getLsbD (by have := s.epc.isLt; simp [State.csrRead]; omega) h
  · exact le_of_getLsbD s.pcRead_lt h
  · exact le_of_getLsbD (by have := s.entry.isLt; simp [State.csrRead]; omega) h
  · simp only [State.csrWrite, State.writeCtrl, h 0 (by decide), h 1 (by decide), h 2 (by decide)]
  · simp only [State.csrWrite, State.writeStatus, h 1 (.inl rfl), h 3 (.inr rfl)]
  · have hw : w.setWidth 13 = w'.setWidth 13 := BitVec.eq_of_getLsbD_eq fun n hn => by
      simp [h n (by omega)]
    simp only [State.csrWrite, State.writeEntry, hw]

/-- Settles O28: the reads by whether a run is on, the final count by `finalCount_step`, the access by `step_csrRead`. -/
theorem pcAndRetiredReads : Obligations.PcAndRetiredReads := by
  unfold Obligations.PcAndRetiredReads
  refine ⟨fun s h => ⟨State.pcRead_idle h, retiredRead_idle h⟩, fun s h => ⟨State.pcRead_busy h, retiredRead_busy h⟩,
    fun s t => finalCount_step, fun s ha ts hs hw => ?_⟩
  rcases hw with h | h
  · rw [if_pos h]
    exact step_csrRead hs (by decide) h
  · rw [if_neg (by omega)]
    exact step_csrRead hs (by decide) h

/-- Settles O23: a write of CTRL by whether a run is on and START is set. -/
theorem ctrlWrites : Obligations.CtrlWrites := by
  unfold Obligations.CtrlWrites
  refine ⟨fun s ha w ts hs h => ?_, fun s ha h => ?_, rfl, rfl⟩
  · rw [step_csrWrite hs (by decide) h]
    exact ⟨fun hi hw => congrArg _ (State.writeCtrl_idle (s := { s with turns := ts }) hi hw),
      fun hi hw => ⟨_, congrArg _ (State.writeCtrl_start (s := { s with turns := ts }) hi hw), rfl, rfl, rfl⟩,
      fun hb => congrArg _ (State.writeCtrl_busy (s := { s with turns := ts }) hb w)⟩
  · rw [s.readValue_csr (by decide) h]
    exact s.ctrlWord_bits.2

/-- Settles O24: the bits of the word STATUS reads, and its write. -/
theorem statusReadsAndWrites : Obligations.StatusReadsAndWrites := by
  unfold Obligations.StatusReadsAndWrites
  refine ⟨fun s ha h => ?_, fun s ha w ts hs h => step_csrWrite hs (by decide) h⟩
  rw [s.readValue_csr (by decide) h]
  exact s.statusWord_bits.2

/-- Settles O25: a write of ENTRY by whether a run is on, its read, and its START. -/
theorem entryWrites : Obligations.EntryWrites := by
  unfold Obligations.EntryWrites
  refine ⟨fun s ha w ts hs h => ?_, fun s ha h => ?_, fun s => ⟨s.entry.isLt, s.acceptStart_pc_toNat⟩, rfl⟩
  · rw [step_csrWrite hs (by decide) h]
    refine ⟨fun hi => ⟨_, congrArg _ (State.writeEntry_idle (s := { s with turns := ts }) hi w), ?_, rfl⟩, fun hb => ?_⟩
    · exact BitVec.toNat_setWidth 13 w
    · exact congrArg _ (State.writeEntry_busy (s := { s with turns := ts }) hb w)
  · rw [s.readValue_csr (by decide) h]
    have := s.entry.isLt
    simp [csrAt, State.csrRead]
    omega

/-- Settles O26: the writes CSR by CSR, the reads by `step_csrRead` and the value of each. -/
theorem readOnlyCsrsIgnoreWrites : Obligations.ReadOnlyCsrsIgnoreWrites := by
  unfold Obligations.ReadOnlyCsrsIgnoreWrites
  refine ⟨fun s ha w ts hs hw => ?_, fun s ha h => s.readValue_csr (by decide) h, fun s ha ts hs hw => ?_,
    fun s ha h => ?_, fun s ha h => ?_⟩
  · simp only [List.mem_cons, List.not_mem_nil, or_false] at hw
    rcases hw with h | h | h | h | h
    all_goals exact step_csrWrite hs (by decide) h
  · rw [s.readValue_csr hw rfl]
    exact step_csrRead hs hw rfl
  · rw [s.readValue_csr (by decide) h]
    show (s.cause.code.setWidth 32).toNat = _ ∧ _
    cases s.cause <;> decide
  · rw [s.readValue_csr (by decide) h]
    have := s.epc.isLt
    simp [csrAt, State.csrRead]
    omega

theorem State.writeCtrl_ie (s : State) (w : Word) : (s.writeCtrl w).ie = w.getLsbD 1 := by
  cases hb : s.busy
  · cases h0 : w.getLsbD 0
    · rw [State.writeCtrl_idle hb h0]
    · rw [State.writeCtrl_start hb h0, State.acceptStart_ie]
  · rw [State.writeCtrl_busy hb]

/-- Settles O34: IRQ is a conjunction, and each of the three writes makes one side false. -/
theorem irqIsDoneAndEnabled : Obligations.IrqIsDoneAndEnabled := by
  unfold Obligations.IrqIsDoneAndEnabled
  refine ⟨fun s => Bool.and_eq_true_iff, fun s t ha w ts hs hw ht => ?_⟩
  rcases hw with ⟨h, hw⟩ | ⟨h, hw⟩ | ⟨h, hi, hw⟩
  all_goals
    rw [step_csrWrite hs (by decide) h, Host.Outcome.next.injEq] at ht
    subst ht
  · simp [csrAt, State.csrWrite, State.irq, hw]
  · exact Bool.and_eq_false_imp.2 fun _ => (State.writeCtrl_ie { s with turns := ts } w).trans hw
  · exact congrArg State.irq (State.writeCtrl_start (s := { s with turns := ts }) hi hw)

/-- Settles O35: the fields that differ are outside the view of a host read (`SameHostView`). -/
theorem hostReadsRevealNoRegister : Obligations.HostReadsRevealNoRegister := by
  unfold Obligations.HostReadsRevealNoRegister
  intro s t ha heq
  have view {α : Type} (g : State → α) : g { t with f := s.f, sc := s.sc, c := s.c, sg := s.sg, pc := s.pc } = g s :=
    congrArg g heq
  have hview : SameHostView s t :=
    ⟨view State.ie, view State.strict, view State.busy, view State.done, view State.faulted, view State.hacc,
      view State.cause, view State.epc, view State.pcCsr, view State.entry, view State.retired, view State.busyReads,
      view State.imem, view State.dmem, view State.powerOn⟩
  refine ⟨fun hcount => hview.readValue_eq fun ht => hcount (word_of_hostTarget_retired ht), ?_, ?_⟩
  · simp [State.hostStep, State.memoryConflict, hview.hacc, hview.busy]
  · rw [State.irq, State.irq, hview.done, hview.ie]

end Sys2Proof.Machine
end

section
/-! PROOFS. The spaces of the machine: what the sequencer leaves alone (R200, R213, R714) and the host's access to IMEM
and DMEM (R202 to R205, R217). -/

namespace Sys2Proof.Machine

/-! ### What the sequencer leaves alone -/

/-- `t` agrees with `s` on the spaces no instruction writes: IMEM, ENTRY, CTRL, HACC, and what the host port holds. -/
structure SameHostSpaces (s t : State) : Prop where
  imem : t.imem = s.imem
  entry : t.entry = s.entry
  ie : t.ie = s.ie
  strict : t.strict = s.strict
  hacc : t.hacc = s.hacc
  hostData : t.hostData = s.hostData
  busyReads : t.busyReads = s.busyReads
  turns : t.turns = s.turns
  powerOn : t.powerOn = s.powerOn

theorem SameHostSpaces.imemWord_eq {s t : State} (h : SameHostSpaces s t) (j : Nat) : t.imemWord j = s.imemWord j := by
  simp only [State.imemWord, h.imem, h.powerOn]

/-- Of the effects only a store is more than an update of fields outside these spaces, and it writes DMEM alone. -/
theorem Effect.sameHostSpaces (e : Effect) (s : State) : SameHostSpaces s (e.apply s) := by
  cases e with
  | writeSlot k v => constructor <;> simp [apply, retireSlot]
  | _ => exact ⟨rfl, rfl, rfl, rfl, rfl, rfl, rfl, rfl, rfl⟩

/-- An effect leaves every byte of DMEM outside the slot it writes alone. -/
theorem Effect.dmemByte_apply_outside {e : Effect} (s : State) {a : Nat}
    (h : ∀ k, e.slot = some k → a < slotOffset k ∨ slotOffset k + 32 ≤ a) : (e.apply s).dmemByte a = s.dmemByte a := by
  cases e with
  | writeSlot k v =>
    obtain ⟨-, -, -, -, -, hout, -⟩ := retireSlot_spec k v s
    exact hout a (h k rfl)
  | _ => rfl

theorem Effect.retires_of_slot {e : Effect} {k : Slot} (h : e.slot = some k) : e.retires = true := by
  cases e with
  | writeSlot => rfl
  | _ => cases h

/-- STF and STS alone write a slot, their own (R129, R600). -/
theorem writesSlot_of_effect {i : Instr} {s : State} {k : Slot} (h : (effect i s).slot = some k) :
    writesSlot i = some k :=
  (effect_fits (Effect.retires_of_slot h)).slot.symm.trans h

/-- Settles O15: an instruction's effect keeps the host's spaces, and the slot it writes is the one of STF or STS. -/
theorem sequencerStaysInItsSpaces : Obligations.SequencerStaysInItsSpaces := by
  unfold Obligations.SequencerStaysInItsSpaces
  intro i s t h
  rw [exec_next_iff] at h
  subst h
  obtain ⟨himem, hentry, hie, hstrict, hhacc, hdata, hreads, hturns, -⟩ := (effect i s).sameHostSpaces s
  exact ⟨himem, hentry, hie, hstrict, hhacc, hdata, hreads, hturns,
    fun a ha => Effect.dmemByte_apply_outside s fun k hk => ha k (writesSlot_of_effect hk)⟩

/-! ### IMEM during a run -/

/-- No turn taken during a run changes an IMEM word; a reset keeps IMEM too (R213, R803). -/
theorem imemWord_step {s t : State} (hb : s.busy = true) (h : step s = .next t) (j : Nat) :
    t.imemWord j = s.imemWord j := by
  obtain ⟨-, hseq⟩ | ⟨a, -, hhost⟩ | ⟨cut, -, rfl⟩ := step_cases h
  · obtain ⟨e, -, rfl⟩ := seqStep_busy_next (s := s.popTurn) hb hseq
    exact (e.sameHostSpaces s.popTurn).imemWord_eq j
  · obtain ⟨heq, -⟩ := hostStep_busy (s := s.popTurn) hb hhost
    rw [heq]
    rfl
  · rfl

/-- The run of a machine whose first step answers a next state. -/
theorem coreRun_succ {M : Host.Core} {s u : M.State} (h : M.step s = .next u) (n : Nat) :
    M.run (n + 1) s = M.run n u := by
  rw [Host.Core.run, h]

/-- A run that answers a next state has a first step that does. -/
theorem coreRun_succ_next {M : Host.Core} {s t : M.State} {n : Nat} (h : M.run (n + 1) s = .next t) :
    ∃ u, M.step s = .next u ∧ M.run n u = .next t := by
  rw [Host.Core.run] at h
  cases hs : M.step s with
  | next u =>
    rw [hs] at h
    exact ⟨u, rfl, h⟩
  | fault | refused =>
    rw [hs] at h
    cases h

theorem runSteps_succ {s u : State} (h : step s = .next u) (n : Nat) : runSteps (n + 1) s = runSteps n u :=
  coreRun_succ (M := core) h n

theorem runSteps_succ_next {s t : State} {n : Nat} (h : runSteps (n + 1) s = .next t) :
    ∃ u, step s = .next u ∧ runSteps n u = .next t :=
  coreRun_succ_next (M := core) h

/-- Settles O16: an instruction keeps IMEM by its effect, a run by induction on its turns (`imemWord_step`). -/
theorem imemIsConstantDuringRun : Obligations.ImemIsConstantDuringRun := by
  unfold Obligations.ImemIsConstantDuringRun
  refine ⟨fun i s t h j => ?_, fun s t n hbusy h j => ?_⟩
  · rw [exec_next_iff] at h
    exact h ▸ ((effect i s).sameHostSpaces s).imemWord_eq j
  · induction n generalizing s with
    | zero =>
      injection h with h
      rw [h]
    | succ n ih =>
      obtain ⟨u, hs, hrun⟩ := runSteps_succ_next h
      have hrest : t.imemWord j = u.imemWord j :=
        ih u (fun m v hm hv => hbusy (m + 1) v (by omega) (runSteps_succ hs m ▸ hv)) hrun
      exact hrest.trans (imemWord_step (hbusy 0 s (by omega) rfl) hs j)

/-! ### The aligned word -/

theorem toNat_and_0xFFFC_div_four (ha : BitVec 16) : (ha &&& 0xFFFC).toNat / 4 = ha.toNat / 4 := by
  have hlt : ha.toNat / 4 < 2 ^ 14 := by
    have := ha.isLt
    omega
  calc (ha &&& 0xFFFC).toNat / 4
      = (ha.toNat / 2 ^ 2) &&& (2 ^ 14 - 1) := Nat.and_div_two_pow (b := 0xFFFC) (n := 2)
    _ = ha.toNat / 4 := by rw [Nat.and_two_pow_sub_one_eq_mod]; exact Nat.mod_eq_of_lt hlt

theorem hostTarget_align (ha : BitVec 16) : hostTarget (ha &&& 0xFFFC) = hostTarget ha := by
  simp only [hostTarget, toNat_and_0xFFFC_div_four]

/-- A host access depends on its address by what the address reaches alone. -/
theorem State.hostRead_congr (s : State) {ha ha' : BitVec 16} (h : hostTarget ha' = hostTarget ha) :
    s.hostRead ha' = s.hostRead ha := by
  have hval : s.readValue ha' = s.readValue ha := by rw [State.readValue, State.readValue, h]
  have hconf : s.memoryConflict ha' = s.memoryConflict ha := by rw [State.memoryConflict, State.memoryConflict, h]
  have hdraw : s.drawsOnRead ha' = s.drawsOnRead ha := by rw [State.drawsOnRead, State.drawsOnRead, h]
  rw [State.hostRead, State.hostRead, hval, hconf, hdraw]

theorem State.hostWrite_congr (s : State) {ha ha' : BitVec 16} (h : hostTarget ha' = hostTarget ha) (w : Word) :
    s.hostWrite ha' w = s.hostWrite ha w := by
  rw [State.hostWrite, State.hostWrite, h]

/-- Settles O30: an access goes where its address leads, and bits 1:0 do not change that (`hostTarget_align`). -/
theorem hostAccessesAreAligned : Obligations.HostAccessesAreAligned := by
  unfold Obligations.HostAccessesAreAligned
  intro s ha w
  exact ⟨(s.hostRead_congr (hostTarget_align ha)).symm, (s.hostWrite_congr (hostTarget_align ha) w).symm⟩

/-! ### The words of DMEM and IMEM -/

theorem hostTarget_dmem_word {ha : BitVec 16} {k : Nat} (h : ha.toNat = 0x4000 + 4 * k) (hk : k < 256) :
    hostTarget ha = .dmem (4 * k) := by
  rw [hostTarget_dmem (by omega), h, HostTarget.dmem.injEq]
  omega

theorem hostTarget_imem_word {ha : BitVec 16} {n : Nat} (h : ha.toNat = 0x8000 + 4 * n) : hostTarget ha = .imem n := by
  rw [hostTarget_imem (by omega), h, HostTarget.imem.injEq]
  omega

/-- While idle a host read writes the word it answers alone. -/
theorem step_hostRead_idle {s : State} {ha : BitVec 16} {ts : List Turn} (hs : s.turns = .host (.read ha) :: ts)
    (hi : s.busy = false) : step s = .next { s with turns := ts, hostData := s.readValue ha } := by
  have hno : State.memoryConflict { s with turns := ts } ha = false := by
    rw [State.memoryConflict]
    cases hostTarget ha with
    | dmem | imem => exact hi
    | csr | unmapped => rfl
  rw [step_host hs, State.hostStep, State.hostRead, State.readValue_setTurns, hno]
  simp [State.drawsOnRead, hi]

theorem toNat_append_add {m n : Nat} (x : BitVec m) (y : BitVec n) :
    (x ++ y).toNat = x.toNat * 2 ^ n + y.toNat := by
  rw [BitVec.toNat_append, ← Nat.shiftLeft_add_eq_or_of_lt y.isLt, Nat.shiftLeft_eq]

/-- The host word of DMEM, least significant byte first (R204). -/
theorem State.dmemWord_eq_append (s : State) (a : Nat) :
    s.dmemWord a = s.dmemByte (a + 3) ++ s.dmemByte (a + 2) ++ s.dmemByte (a + 1) ++ s.dmemByte a := by
  have hbytes : (s.dmemByte (a + 3) ++ s.dmemByte (a + 2) ++ s.dmemByte (a + 1) ++ s.dmemByte a).toNat =
      s.memRead a 4 := by
    rw [toNat_append_add, toNat_append_add, toNat_append_add]
    simp only [State.memRead, Nat.add_assoc, Nat.reduceAdd]
    ring
  apply BitVec.eq_of_toNat_eq
  calc (s.dmemWord a).toNat
      = s.memRead a 4 := Nat.mod_eq_of_lt (s.memRead_lt a 4)
    _ = _ := hbytes.symm

/-- Byte `j` of a word. -/
theorem ofNat_div_pow_eq_extractLsb' (w : Word) (j : Nat) :
    BitVec.ofNat 8 (w.toNat / 256 ^ j) = w.extractLsb' (8 * j) 8 := by
  rw [BitVec.extractLsb', Nat.shiftRight_eq_div_pow, Nat.pow_mul]

/-- Settles O31: while idle the access reaches the word at offset 4k, which is its four bytes (`dmemWord_eq_append`) and is
written byte by byte (`dmemByte_memWrite_inside`, `dmemByte_memWrite_outside`). -/
theorem hostDmemWordsAreLittleEndian : Obligations.HostDmemWordsAreLittleEndian := by
  unfold Obligations.HostDmemWordsAreLittleEndian
  intro s ha w ts k h hk hi
  have htarget := hostTarget_dmem_word h hk
  refine ⟨fun hs => ⟨_, step_hostRead_idle hs hi, ?_, rfl⟩, fun hs => ?_⟩
  · rw [State.readValue, htarget, ← State.dmemWord_eq_append]
    simp [hi]
  · have hstep : step s = .next (State.memWrite { s with turns := ts } (4 * k) 4 w.toNat) := by
      simp [step_host hs, State.hostStep, State.hostWrite, htarget, hi]
    refine ⟨_, hstep, fun j hj => ?_, fun a ha => ?_, ?_⟩
    · rw [State.dmemByte_memWrite_inside _ _ _ _ _ hj, ofNat_div_pow_eq_extractLsb']
    · exact State.dmemByte_memWrite_outside { s with turns := ts } _ _ _ _ ha
    · rw [State.memWrite_eq]

/-- Settles O32: while idle the access reaches word n of IMEM (`hostTarget_imem_word`). -/
theorem hostImemWords : Obligations.HostImemWords := by
  unfold Obligations.HostImemWords
  intro s ha w ts n h _ hi
  have htarget := hostTarget_imem_word h
  refine ⟨fun hs => ?_, fun hs => ?_⟩
  · rw [step_hostRead_idle hs hi, State.readValue, htarget]
    simp [hi]
  · have hstep : step s = .next (State.setImemWord { s with turns := ts } n w) := by
      simp [step_host hs, State.hostStep, State.hostWrite, htarget, hi]
    refine ⟨_, hstep, ?_, fun j hj => ?_, rfl⟩
    · rw [State.imemWord_setImemWord, if_pos rfl]
    · rw [State.imemWord_setImemWord, if_neg hj]
      rfl

/-! ### Accesses that reach no memory -/

/-- Settles O29: both ranges lead to no target (`hostTarget_unmapped`). -/
theorem unmappedAddresses : Obligations.UnmappedAddresses := by
  unfold Obligations.UnmappedAddresses
  intro s ha w ts h
  have htarget := hostTarget_unmapped h
  refine ⟨fun hs => ?_, fun hs => ?_⟩
  · rw [step_host hs]
    simp [State.hostStep, State.hostRead, State.readValue, State.memoryConflict, State.drawsOnRead, htarget]
  · rw [step_host hs]
    simp [State.hostStep, State.hostWrite, htarget]

/-- An address in the range of DMEM or of IMEM reaches that memory (R201). -/
theorem hostTarget_memory {ha : BitVec 16} (h : (0x4000 ≤ ha.toNat ∧ ha.toNat ≤ 0x43FF) ∨ 0x8000 ≤ ha.toNat) :
    (∃ a, hostTarget ha = .dmem a) ∨ ∃ i, hostTarget ha = .imem i := by
  rcases h with h | h
  · exact .inl ⟨_, hostTarget_dmem h⟩
  · exact .inr ⟨_, hostTarget_imem h⟩

/-- Settles O33: the address reaches one of the two memories (`hostTarget_memory`), and both are locked alike (R217). -/
theorem memoryIsLockedDuringRun : Obligations.MemoryIsLockedDuringRun := by
  unfold Obligations.MemoryIsLockedDuringRun
  intro s ha w ts h hb
  refine ⟨fun hs => ?_, fun hs => ?_⟩
  · rw [step_host hs]
    rcases hostTarget_memory h with ⟨a, htarget⟩ | ⟨i, htarget⟩
    all_goals
      simp [State.hostStep, State.hostRead, State.readValue, State.memoryConflict, State.drawsOnRead, htarget, hb]
  · rw [step_host hs]
    rcases hostTarget_memory h with ⟨a, htarget⟩ | ⟨i, htarget⟩
    all_goals simp [State.hostStep, State.hostWrite, htarget, hb]

end Sys2Proof.Machine
end

section
/-! PROOFS. Encoding and decoding: fields decode to an instruction exactly when they are its own fields (R301 to R309). -/

namespace Sys2Proof

/-! ### The operands and the fields that hold them (R303, R304, R456) -/

@[simp] theorem fregOf_regField (r : FReg) : fregOf (regField r) = r := by revert r; decide

@[simp] theorem sregOf_regField (r : SReg) : sregOf (regField r) = r := by revert r; decide

theorem immField_toNat {n : Nat} (h : n < 2 ^ 14) : (immField n).toNat = n := by
  rw [immField, BitVec.toNat_ofNat, Nat.mod_eq_of_lt h]

@[simp] theorem romIxOf_immField (k : RomIx) : romIxOf (immField k) = k := by
  apply Fin.ext
  simp only [romIxOf, immField_toNat (show k.val < 2 ^ 14 by omega)]
  omega

@[simp] theorem slotOf_immField (k : Slot) : slotOf (immField k) = k := by
  apply Fin.ext
  simp only [slotOf, immField_toNat (show k.val < 2 ^ 14 by omega)]
  omega

@[simp] theorem bitIxOf_immField (n : BitIx) : bitIxOf (immField n) = n := by
  apply Fin.ext
  simp only [bitIxOf, immField_toNat (show n.val < 2 ^ 14 by omega)]
  omega

@[simp] theorem cflgModeOf_immField (m : CflgMode) : cflgModeOf (immField m.number) = m := by cases m <;> rfl

@[simp] theorem regField_fregOf (x : BitVec 4) : regField (fregOf x) = x := by revert x; decide

theorem regField_sregOf {x : BitVec 4} (h : scalarField x = true) : regField (sregOf x) = x := by revert x; decide

/-- A field of the immediate that is the whole immediate is written back as it was read. -/
theorem immField_mod {imm : BitVec 14} {m : Nat} (h : imm.toNat < m) : immField (imm.toNat % m) = imm := by
  rw [Nat.mod_eq_of_lt h, immField, BitVec.ofNat_toNat, BitVec.setWidth_eq]

theorem immField_romIxOf {imm : BitVec 14} (h : imm.toNat < 8) : immField (romIxOf imm) = imm := immField_mod h

theorem immField_slotOf {imm : BitVec 14} (h : imm.toNat < 32) : immField (slotOf imm) = imm := immField_mod h

theorem immField_bitIxOf {imm : BitVec 14} (h : imm.toNat < 256) : immField (bitIxOf imm) = imm := immField_mod h

theorem number_cflgModeOf (imm : BitVec 14) : (cflgModeOf imm).number = imm.toNat % 4 := by
  have hlt : imm.toNat % 4 < 4 := Nat.mod_lt _ (by decide)
  unfold cflgModeOf
  interval_cases imm.toNat % 4 <;> rfl

theorem immField_number_cflgModeOf {imm : BitVec 14} (h : imm.toNat < 4) :
    immField (cflgModeOf imm).number = imm := by
  rw [number_cflgModeOf, immField_mod h]

/-! ### The two round trips -/

open Laws.EncodingRow in
/-- Every instruction's encoding matches its row. -/
theorem encodingRow_statement (i : Instr) : Statement i := by
  cases i
  exacts [halt, nop, add .., sub .., mul .., sqr .., neg .., mov .., ldc .., inv .., sqrt .., csel .., cswap .., ceq ..,
    cbitf .., cbits .., cflg .., m2e .., e2m .., clamp .., rnd .., ldu .., lde .., lds .., stf .., sts ..]

/-- Every instruction is well formed: an encoding that matches its row has fields that pass the row's checks. -/
theorem Instr.wellFormed_eq_true (i : Instr) : i.wellFormed = true := by
  have h := encodingRow_statement i
  rw [Laws.EncodingRow.Statement, Instr.matchWord, word_mask_iff, encode, Fields.ofWord_toWord] at h
  exact h.2

/-- The instruction of the same row as `i` whose operands are read from `f` (R303 to R305). -/
def Instr.withOperands (i : Instr) (f : Fields) : Instr :=
  match i with
  | .halt => .halt
  | .nop => .nop
  | .add .. => .add (fregOf f.x) (fregOf f.y) (fregOf f.z)
  | .sub .. => .sub (fregOf f.x) (fregOf f.y) (fregOf f.z)
  | .mul .. => .mul (fregOf f.x) (fregOf f.y) (fregOf f.z)
  | .sqr .. => .sqr (fregOf f.x) (fregOf f.y)
  | .neg .. => .neg (fregOf f.x) (fregOf f.y)
  | .mov .. => .mov (fregOf f.x) (fregOf f.y)
  | .ldc .. => .ldc (fregOf f.x) (romIxOf f.imm)
  | .inv .. => .inv (fregOf f.x) (fregOf f.y)
  | .sqrt .. => .sqrt (fregOf f.x) (fregOf f.y)
  | .csel .. => .csel (fregOf f.x) (fregOf f.y) (fregOf f.z)
  | .cswap .. => .cswap (fregOf f.y) (fregOf f.z)
  | .ceq .. => .ceq (fregOf f.y) (fregOf f.z)
  | .cbitf .. => .cbitf (fregOf f.y) (bitIxOf f.imm)
  | .cbits .. => .cbits (sregOf f.y) (bitIxOf f.imm)
  | .cflg .. => .cflg (cflgModeOf f.imm)
  | .m2e .. => .m2e (fregOf f.x) (fregOf f.y)
  | .e2m .. => .e2m (fregOf f.x) (fregOf f.y)
  | .clamp .. => .clamp (sregOf f.x) (sregOf f.y)
  | .rnd .. => .rnd (sregOf f.x)
  | .ldu .. => .ldu (fregOf f.x) (slotOf f.imm)
  | .lde .. => .lde (fregOf f.x) (slotOf f.imm)
  | .lds .. => .lds (sregOf f.x) (slotOf f.imm)
  | .stf .. => .stf (slotOf f.imm) (fregOf f.x)
  | .sts .. => .sts (slotOf f.imm) (sregOf f.x)

/-- The opcode alone chooses the row that the decoder tries (R305, R306). -/
theorem decodeFields_eq_row (i : Instr) {f : Fields} (hop : f.op = i.opcode) :
    decodeFields f = row i.format f (i.withOperands f) := by
  obtain ⟨op, x, y, z, imm⟩ := f
  subst hop
  cases i <;> rfl

@[simp] theorem Instr.fields_op (i : Instr) : i.fields.op = i.opcode := by cases i <;> rfl

/-- An instruction's fields give back its operands. -/
@[simp] theorem Instr.withOperands_fields (i : Instr) : i.withOperands i.fields = i := by
  cases i <;> simp [Instr.fields, Instr.withOperands]

/-- Fields that pass a format's checks are given back by the operands read from them: every other bit is zero (R302). -/
theorem Instr.fields_withOperands {i : Instr} {f : Fields} (hop : f.op = i.opcode) (hacc : i.format.accepts f = true) :
    (i.withOperands f).fields = f := by
  obtain ⟨op, x, y, z, imm⟩ := f
  subst hop
  cases i <;>
    simp_all [Instr.format, Format.accepts, Instr.withOperands, Instr.fields, Instr.opcode, regField_sregOf,
      immField_romIxOf, immField_slotOf, immField_bitIxOf, immField_number_cflgModeOf]

/-- Decoding is the inverse of taking an instruction's fields. -/
theorem decodeFields_eq_ok_iff {f : Fields} {i : Instr} : decodeFields f = .ok i ↔ i.fields = f := by
  constructor
  · intro h
    obtain ⟨hop, hacc⟩ := decodeFields_ok h
    rw [decodeFields_eq_row i hop.symm, row_eq_ok] at h
    rw [← Instr.fields_withOperands hop.symm hacc, h.2]
  · rintro rfl
    rw [decodeFields_eq_row i i.fields_op, row_eq_ok]
    exact ⟨i.wellFormed_eq_true, i.withOperands_fields⟩

/-- A word decodes to an instruction exactly when it is its encoding (R309). -/
theorem decode_eq_ok_iff {w : Word} {i : Instr} : decode w = .ok i ↔ encode i = w := by
  rw [decode, decodeFields_eq_ok_iff, encode, ← Fields.toWord_inj, Fields.toWord_ofWord]

/-- Settles O1: a word that decodes is the encoding of what it decodes to (`decode_eq_ok_iff`). -/
theorem decodedWordsReencode : Obligations.DecodedWordsReencode := by
  unfold Obligations.DecodedWordsReencode
  intro w i h
  exact decode_eq_ok_iff.1 h

/-- Settles O2: an encoding decodes to its instruction (`decode_eq_ok_iff`), whose fields pass the checks of its format. -/
theorem encodedInstructionsDecode : Obligations.EncodedInstructionsDecode := by
  unfold Obligations.EncodedInstructionsDecode
  intro i
  exact ⟨i.wellFormed_eq_true, decode_eq_ok_iff.2 rfl⟩

/-- Settles O5: the six words of R312, each decoded and encoded by evaluation. -/
theorem workedEncodingsDecode : Obligations.WorkedEncodingsDecode := by
  unfold Obligations.WorkedEncodingsDecode
  decide

end Sys2Proof
end

section
/-! PROOFS. The rows of the opcode table and the words they match (R305 to R307), and the trap of a word that matches none
(R701). -/

namespace Sys2Proof

/-! ### The table and the decoder -/

/-- The row of an instruction: its format's mask and its match value (R302, R305). -/
def Instr.tableRow (i : Instr) : Word × Word := (i.format.mask, i.matchWord)

/-- One instruction for each row of the opcode table, in its order, with the operands that zero fields name. -/
def rowInstrs : List Instr :=
  [.halt, .nop, .add 0 0 0, .sub 0 0 0, .mul 0 0 0, .sqr 0 0, .neg 0 0, .mov 0 0, .ldc 0 0, .inv 0 0, .sqrt 0 0, .csel 0 0 0,
   .cswap 0 0, .ceq 0 0, .cbitf 0 0, .cbits 0 0, .cflg .zero, .m2e 0 0, .e2m 0 0, .clamp 0 0, .rnd 0, .ldu 0 0, .lde 0 0,
   .lds 0 0, .stf 0 0, .sts 0 0]

theorem opcodeRows_eq : opcodeRows = rowInstrs.map Instr.tableRow := by
  simp [opcodeRows, rowInstrs, Instr.tableRow, Instr.format, Format.mask, Instr.matchWord, Instr.opcode]

theorem Instr.tableRow_withOperands (i : Instr) (f : Fields) : (i.withOperands f).tableRow = i.tableRow := by
  cases i <;> rfl

theorem Instr.withOperands_zero_mem_rowInstrs (i : Instr) : i.withOperands ⟨0, 0, 0, 0, 0⟩ ∈ rowInstrs := by
  cases i <;> dsimp only [Instr.withOperands] <;> decide

/-- The table lists the rows of the instructions, whatever their operands are. -/
theorem mem_opcodeRows_iff {r : Word × Word} : r ∈ opcodeRows ↔ ∃ i : Instr, r = i.tableRow := by
  constructor
  · intro h
    rw [opcodeRows_eq, List.mem_map] at h
    obtain ⟨i, -, rfl⟩ := h
    exact ⟨i, rfl⟩
  · rintro ⟨i, rfl⟩
    rw [opcodeRows_eq, List.mem_map]
    exact ⟨_, i.withOperands_zero_mem_rowInstrs, i.tableRow_withOperands _⟩

theorem matchesSomeRow_iff {w : Word} : matchesSomeRow w = true ↔ ∃ r ∈ opcodeRows, w &&& r.1 = r.2 := by
  simp [matchesSomeRow]

/-- Decoding succeeds exactly on the words that match some row (R306). -/
theorem decode_ok_iff_matchesSomeRow (w : Word) : (∃ i, decode w = .ok i) ↔ matchesSomeRow w = true := by
  rw [matchesSomeRow_iff]
  constructor
  · rintro ⟨i, h⟩
    obtain ⟨hop, hacc⟩ := decodeFields_ok h
    exact ⟨i.tableRow, mem_opcodeRows_iff.2 ⟨i, rfl⟩, (word_mask_iff i.format w i.opcode).2 ⟨hop.symm, hacc⟩⟩
  · rintro ⟨r, hr, hw⟩
    obtain ⟨j, rfl⟩ := mem_opcodeRows_iff.1 hr
    obtain ⟨hop, hacc⟩ := (word_mask_iff j.format w j.opcode).1 hw
    exact ⟨_, (decodeFields_eq_row j hop).trans (row_eq_ok.2 ⟨hacc, rfl⟩)⟩

/-! ### The opcode of a row -/

/-- The OP of a row (R305). -/
def rowOp (r : Word × Word) : Nat := r.2.toNat / 2 ^ 26

/-- The assigned OP values (R305). -/
theorem opcodeRows_map_rowOp : opcodeRows.map rowOp =
    [0x01, 0x02, 0x04, 0x05, 0x06, 0x07, 0x08, 0x09, 0x0A, 0x0C, 0x0D, 0x10, 0x11, 0x12, 0x13, 0x14, 0x15, 0x18, 0x19, 0x1C, 0x1D,
     0x20, 0x21, 0x22, 0x24, 0x25] := by decide

theorem rowOp_nodup : (opcodeRows.map rowOp).Nodup := by
  rw [opcodeRows_map_rowOp]
  decide

theorem rowOp_not_unassigned {r : Word × Word} (hr : r ∈ opcodeRows) : rowOp r ∉ unassignedOps := by
  have h : ∀ n ∈ opcodeRows.map rowOp, n ∉ unassignedOps := by
    rw [opcodeRows_map_rowOp]
    decide
  exact h _ (List.mem_map_of_mem hr)

theorem rowMask_covers_op : ∀ r ∈ opcodeRows, r.1.toNat / 2 ^ 26 = 63 := by simp [opcodeRows]

/-- The bits of a mask that covers OP keep the OP of a word. -/
theorem and_mask_op {w m : Word} (h : m.toNat / 2 ^ 26 = 63) : (w &&& m).toNat / 2 ^ 26 = w.toNat / 2 ^ 26 := by
  have hlt : w.toNat / 2 ^ 26 < 2 ^ 6 := by omega
  calc (w &&& m).toNat / 2 ^ 26 = w.toNat / 2 ^ 26 &&& m.toNat / 2 ^ 26 := by
        simp only [BitVec.toNat_and, ← Nat.shiftRight_eq_div_pow, Nat.shiftRight_and_distrib]
    _ = w.toNat / 2 ^ 26 % 2 ^ 6 := by rw [h, ← Nat.and_two_pow_sub_one_eq_mod]
    _ = w.toNat / 2 ^ 26 := Nat.mod_eq_of_lt hlt

/-- A word that matches a row has the row's OP. -/
theorem op_of_matches {w : Word} {r : Word × Word} (hr : r ∈ opcodeRows) (hw : w &&& r.1 = r.2) :
    w.toNat / 2 ^ 26 = rowOp r := by
  rw [rowOp, ← hw, and_mask_op (rowMask_covers_op r hr)]

/-- The rows that match a word have its OP, and at most one row has it (R306). -/
theorem length_matching_le_one (w : Word) : (opcodeRows.filter fun r => w &&& r.1 == r.2).length ≤ 1 := by
  calc (opcodeRows.filter fun r => w &&& r.1 == r.2).length
      = opcodeRows.countP fun r => w &&& r.1 == r.2 := List.countP_eq_length_filter.symm
    _ ≤ opcodeRows.countP fun r => rowOp r == w.toNat / 2 ^ 26 :=
        List.countP_mono_left fun r hr hw => beq_iff_eq.2 (op_of_matches hr (beq_iff_eq.1 hw)).symm
    _ = (opcodeRows.map rowOp).count (w.toNat / 2 ^ 26) := by rw [List.count, List.countP_map]; rfl
    _ ≤ 1 := List.nodup_iff_count_le_one.1 rowOp_nodup _

/-- Settles O3: the matching rows share the word's OP (`length_matching_le_one`), and the decoder follows the table
(`decode_ok_iff_matchesSomeRow`). -/
theorem atMostOneRowMatches : Obligations.AtMostOneRowMatches := by
  unfold Obligations.AtMostOneRowMatches
  exact ⟨length_matching_le_one, decode_ok_iff_matchesSomeRow, rowOp_nodup, rowMask_covers_op⟩

/-! ### Words that match no row -/

/-- A word whose OP is assigned to no row matches none (R307 (a), (b)). -/
theorem not_matches_of_unassigned {w : Word} (h : w.toNat / 2 ^ 26 ∈ unassignedOps) : matchesSomeRow w = false := by
  rw [← Bool.not_eq_true, matchesSomeRow_iff]
  rintro ⟨r, hr, hw⟩
  rw [op_of_matches hr hw] at h
  exact rowOp_not_unassigned hr h

/-- A word with the OP of a row whose must-be-zero bits it breaks matches no other row either (R307 (c)). -/
theorem not_matches_of_reservedBits {w : Word} {r : Word × Word} (hr : r ∈ opcodeRows) (hop : w.toNat / 2 ^ 26 = rowOp r)
    (hbits : w &&& r.1 ≠ r.2) : matchesSomeRow w = false := by
  rw [← Bool.not_eq_true, matchesSomeRow_iff]
  rintro ⟨q, hq, hw⟩
  have hqr : q = r := List.inj_on_of_nodup_map rowOp_nodup hq hr ((op_of_matches hq hw).symm.trans hop)
  exact hbits (hqr ▸ hw)

open Machine in
/-- During a run a word that does not decode traps ILLEGAL_INSTRUCTION (R701). -/
theorem Machine.seqStep_illegal {s : State} (hb : s.busy = true) (hpc : s.pc.toNat < imemWords)
    (hd : ∀ i, decode (s.imemWord s.pc.toNat) ≠ .ok i) : seqStep s = .next (s.takeTrap .illegalInstruction) := by
  obtain ⟨e, he, hs⟩ := seqStep_fetched hb hpc.le
  cases he with
  | bound h => exact absurd h hpc.ne
  | illegal => exact hs
  | instr i _ h => exact absurd h (hd i)

/-- Settles O4: a word that matches no row does not decode (`decode_ok_iff_matchesSomeRow`), so the cycle is the trap. -/
theorem unmatchedWordsTrapIllegal : Obligations.UnmatchedWordsTrapIllegal := by
  unfold Obligations.UnmatchedWordsTrapIllegal
  refine ⟨fun s hturn hb hpc hw => ?_, fun _ => not_matches_of_unassigned, fun r hr w => not_matches_of_reservedBits hr⟩
  have hd : ∀ i, decode (s.imemWord s.pc.toNat) ≠ .ok i := fun i h => by
    rw [(decode_ok_iff_matchesSomeRow _).1 ⟨i, h⟩] at hw
    cases hw
  refine ⟨s.popTurn.takeTrap .illegalInstruction, ?_, Machine.takeTrap_spec _ _, Machine.takeTrap_rng _ _, rfl⟩
  rw [Machine.step_sequencer hturn]
  exact Machine.seqStep_illegal hb hpc hd

end Sys2Proof
end

section
/-! PROOFS. Every row of the opcode table decodes, from one instruction of the row (R302 to R306). -/

namespace Sys2Proof

@[simp] theorem Instr.opcode_withOperands (i : Instr) (f : Fields) : (i.withOperands f).opcode = i.opcode := by
  cases i <;> rfl

@[simp] theorem Instr.format_withOperands (i : Instr) (f : Fields) : (i.withOperands f).format = i.format := by
  cases i <;> rfl

/-- The words of `i`'s row decode to `i` with the operands read from the word. -/
theorem rowDecodes_withOperands (i : Instr) :
    RowDecodes i.format.mask i.matchWord fun w => i.withOperands (Fields.ofWord w) :=
  rowDecodes_of (fun _ hop => decodeFields_eq_row i hop) (fun _ => i.opcode_withOperands _) fun _ => i.format_withOperands _

/-- A row stated with its mask, its match value and its operands, from any one instruction `i` of the row: the row is
compared by evaluation, the operands by the lemmas on the fields of a word. -/
theorem rowDecodes_of_instr (i : Instr) {mask m : Word} {g : Word → Instr} (hrow : i.tableRow = (mask, m) := by rfl)
    (hg : ∀ w, i.withOperands (Fields.ofWord w) = g w := by simp [Instr.withOperands]) : RowDecodes mask m g := by
  obtain ⟨rfl, rfl⟩ := Prod.mk.inj hrow
  obtain rfl := funext hg
  exact rowDecodes_withOperands i

end Sys2Proof
end

section
/-! PROOFS. The field arithmetic instructions: each writes the value of its operation to its destination and nothing else;
SQRT traps where there is no root (R400 to R410). -/

namespace Sys2Proof.Machine

/-! ### The one write of an instruction -/

@[simp] theorem readF_retireF (d : FReg) (v : Fe) (s : State) : (retireF d v s).readF d = v := (retireF_spec d v s).1

theorem wroteOnlyF_retireF (d : FReg) (v : Fe) (s : State) : WroteOnlyF d s (retireF d v s) := (retireF_spec d v s).2

/-! ### The values of the operations -/

/-- The difference is the integer difference's residue: adding P first only keeps it from being negative (R402). -/
theorem fsub_val_int (a b : Fe) : ((fsub a b).val : Int) = ((a.val : Int) - b.val) % P := by
  have hshift : (a.val : Int) + (P - b.val) = a.val - b.val + P := by ring
  rw [fsub_val, Int.natCast_mod, Nat.cast_add, Nat.cast_sub b.isLt.le, hshift, Int.add_emod_right]

/-- The negation is 0 for 0, and needs no reduction otherwise (R405). -/
theorem fneg_val_eq (a : Fe) : (fneg a).val = if a.val = 0 then 0 else P - a.val := by
  rw [fneg_val]
  split
  · next h => rw [h, Nat.sub_zero, Nat.mod_self]
  · next h => exact Nat.mod_eq_of_lt (Nat.sub_lt P_pos (Nat.pos_of_ne_zero h))

/-- Settles O36: the rows, and the residues that `fadd`, `fsub` and `fmul` compute. -/
theorem addSubMulWriteResidues : Obligations.AddSubMulWriteResidues := by
  unfold Obligations.AddSubMulWriteResidues
  refine ⟨rowDecodes_of_instr (.add 0 0 0), rowDecodes_of_instr (.sub 0 0 0), rowDecodes_of_instr (.mul 0 0 0),
    fun d a b s => ⟨?_, ?_, ?_⟩⟩
  · exact ⟨_, exec_add s d a b, wroteOnlyF_retireF .., by rw [readF_retireF, fadd_val]⟩
  · exact ⟨_, exec_sub s d a b, wroteOnlyF_retireF .., by rw [readF_retireF, fsub_val_int]⟩
  · exact ⟨_, exec_mul s d a b, wroteOnlyF_retireF .., by rw [readF_retireF, fmul_val]⟩

/-- Settles O37: the rows, the square as a product, the negation by `fneg_val_eq`, and the copy. -/
theorem sqrNegMovWriteResidues : Obligations.SqrNegMovWriteResidues := by
  unfold Obligations.SqrNegMovWriteResidues
  refine ⟨rowDecodes_of_instr (.sqr 0 0), rowDecodes_of_instr (.neg 0 0), rowDecodes_of_instr (.mov 0 0),
    fun d a s => ⟨?_, ?_, ?_⟩⟩
  · exact ⟨_, exec_sqr s d a, wroteOnlyF_retireF .., by rw [readF_retireF, fmul_val]⟩
  · exact ⟨_, exec_neg s d a, wroteOnlyF_retireF .., by rw [readF_retireF, fneg_val_eq]⟩
  · exact ⟨_, exec_mov s d a, wroteOnlyF_retireF .., readF_retireF ..⟩

/-! ### The constant ROM (R132, R407) -/

theorem rom_val (k : RomIx) : some (rom k).val = [0, 1, 9, 486662, 121665,
    0x2b8324804fc1df0b2b4d00993dfbd7a72f431806ad2fe478c4ee1b274a0ea0b0,
    0x52036cee2b6ffe738cc740797779e89800700a4d4141d8ab75eb4dca135978a3, 2][k.val]? := by
  revert k
  decide

/-- A word with LDC's opcode and IMM[13:3] not zero breaks the must-be-zero bits of LDC's row (R307 (c)). -/
theorem not_matches_of_ldc_reservedBits {w : Word} (hop : w.toNat / 2 ^ 26 = 0x0A) (himm : w.toNat % 2 ^ 14 / 2 ^ 3 ≠ 0) :
    matchesSomeRow w = false := by
  refine not_matches_of_reservedBits (mem_opcodeRows_iff.2 ⟨.ldc 0 0, rfl⟩) hop fun hbits => himm ?_
  have hacc := ((word_mask_iff .fk w (Instr.ldc 0 0).opcode).1 hbits).2
  simp only [Format.accepts, Bool.and_eq_true, decide_eq_true_eq, Fields.ofWord_imm_toNat] at hacc
  exact Nat.div_eq_of_lt hacc.2

/-- Settles O38: the row, the words it leaves out, and the eight values of `rom`. -/
theorem ldcWritesRomConstant : Obligations.LdcWritesRomConstant := by
  unfold Obligations.LdcWritesRomConstant
  refine ⟨rowDecodes_of_instr (.ldc 0 0), fun w => not_matches_of_ldc_reservedBits, fun d k s => ?_⟩
  exact ⟨_, exec_ldc s d k, wroteOnlyF_retireF .., by rw [readF_retireF, rom_val]⟩

/-! ### The inverse (R408) -/

/-- Settles O39: the row, the power by `finv_val`, and 0 for 0 by `finv_zero`. The latency reads the opcode alone. -/
theorem invWritesPower : Obligations.InvWritesPower := by
  unfold Obligations.InvWritesPower
  refine ⟨rowDecodes_of_instr (.inv 0 0), fun d a s => ?_, fun _ _ _ _ => rfl⟩
  refine ⟨_, exec_inv s d a, wroteOnlyF_retireF .., by rw [readF_retireF, finv_val], fun hzero => ?_⟩
  have ha : s.readF a = feZero := Fin.ext hzero
  rw [readF_retireF, ha, finv_zero]
  rfl

/-! ### The square root (R409) -/

theorem sqrtFirst_val (a : Fe) : (sqrtFirst a).val = a.val ^ ((P + 3) / 8) % P := fpow_val _ _

theorem sqrtM1_val : sqrtM1.val = 0x2b8324804fc1df0b2b4d00993dfbd7a72f431806ad2fe478c4ee1b274a0ea0b0 := by decide

theorem sqrtSecond_val (a : Fe) : (sqrtSecond a).val =
    a.val ^ ((P + 3) / 8) % P * 0x2b8324804fc1df0b2b4d00993dfbd7a72f431806ad2fe478c4ee1b274a0ea0b0 % P := by
  rw [sqrtSecond, fmul_val, sqrtFirst_val, sqrtM1_val]

@[simp] theorem feZ_sqrtFirst (a : Fe) : feZ (sqrtFirst a) = feZ a ^ ((P + 3) / 8) := feZ_fpow _ _

@[simp] theorem feZ_sqrtSecond (a : Fe) : feZ (sqrtSecond a) = feZ (sqrtFirst a) * feZ sqrtM1 :=
  feZ_fmul _ _

theorem fmul_self_eq_iff {r a : Fe} : fmul r r = a ↔ feZ r * feZ r = feZ a := by rw [← feZ_inj, feZ_fmul]

section
variable {a : Fe}

theorem fsqrt_eq_first (h : fmul (sqrtFirst a) (sqrtFirst a) = a) : fsqrt a = some (sqrtFirst a) := by
  rw [fsqrt, if_pos h]

theorem fsqrt_eq_second (h1 : fmul (sqrtFirst a) (sqrtFirst a) ≠ a) (h2 : fmul (sqrtSecond a) (sqrtSecond a) = a) :
    fsqrt a = some (sqrtSecond a) := by
  rw [fsqrt, if_neg h1, if_pos h2]

theorem fsqrt_eq_none (h1 : fmul (sqrtFirst a) (sqrtFirst a) ≠ a) (h2 : fmul (sqrtSecond a) (sqrtSecond a) ≠ a) :
    fsqrt a = none := by
  rw [fsqrt, if_neg h1, if_neg h2]

/-- If a value has a root, one of the two candidates is a root (`candidate_of_square`). -/
theorem sqrt_candidate_of_root {y : Fe} (h : fmul y y = a) :
    fmul (sqrtFirst a) (sqrtFirst a) = a ∨ fmul (sqrtSecond a) (sqrtSecond a) = a := by
  simpa only [fmul_self_eq_iff, feZ_sqrtSecond, feZ_sqrtFirst] using
    candidate_of_square (feZ a) (feZ y) (feZ sqrtM1) (fmul_self_eq_iff.1 h) feZ_sqrtM1_sq

/-- Both candidates fail exactly when no natural number squares to the value modulo P. -/
theorem sqrt_candidates_fail_iff : (fmul (sqrtFirst a) (sqrtFirst a) ≠ a ∧ fmul (sqrtSecond a) (sqrtSecond a) ≠ a) ↔
    ∀ y : Nat, y * y % P ≠ a.val := by
  constructor
  · rintro ⟨h1, h2⟩ y hy
    have hroot : fmul (Fe.ofNat y) (Fe.ofNat y) = a := Fin.ext (by rw [fmul_val, Fe_ofNat_val, ← Nat.mul_mod, hy])
    exact (sqrt_candidate_of_root hroot).elim h1 h2
  · exact fun h => ⟨fun h1 => h _ (congrArg Fin.val h1), fun h2 => h _ (congrArg Fin.val h2)⟩

/-- The squares of the candidates are opposite, so that both are `a` only when `a = -a`. -/
theorem eq_zero_of_both_candidates (h1 : fmul (sqrtFirst a) (sqrtFirst a) = a)
    (h2 : fmul (sqrtSecond a) (sqrtSecond a) = a) : a = feZero := by
  have : Fact (Nat.Prime P) := ⟨Laws.P_prime⟩
  rw [fmul_self_eq_iff] at h1 h2
  rw [feZ_sqrtSecond] at h2
  have hdouble : 2 * feZ a = 0 := by
    linear_combination (feZ (sqrtFirst a) * feZ (sqrtFirst a)) * feZ_sqrtM1_sq - h1 - h2
  exact feZ_eq_zero.1 ((mul_eq_zero.1 hdouble).resolve_left two_ne_zero_P)

end

/-- Settles O40: the row, the three cases of `fsqrt`, when both candidates fail, and when both succeed. -/
theorem sqrtWritesCandidateOrTraps : Obligations.SqrtWritesCandidateOrTraps := by
  unfold Obligations.SqrtWritesCandidateOrTraps
  refine ⟨rowDecodes_of_instr (.sqrt 0 0), fun d a s => ?_⟩
  dsimp only
  rw [← sqrtSecond_val, ← sqrtFirst_val]
  simp only [← fmul_val, ← Fin.ext_iff, ne_eq]
  refine ⟨fun h1 => ?_, fun h1 h2 => ?_, fun h1 h2 => ?_, sqrt_candidates_fail_iff, ?_⟩
  · exact ⟨_, exec_sqrt_some s (fsqrt_eq_first h1), wroteOnlyF_retireF .., readF_retireF ..⟩
  · exact ⟨_, exec_sqrt_some s (fsqrt_eq_second h1 h2), wroteOnlyF_retireF .., readF_retireF ..⟩
  · exact ⟨_, exec_sqrt_none s (fsqrt_eq_none h1 h2), takeTrap_spec .., takeTrap_rng ..⟩
  · rintro hx ⟨h1, h2⟩
    exact hx (congrArg Fin.val (eq_zero_of_both_candidates h1 h2))

/-! ### The identities of the field (R410) -/

theorem fmul_finv {a : Fe} (h : a ≠ feZero) : fmul a (finv a) = feOne := by
  rw [← feZ_inj, feZ_fmul, finv, feZ_fpow, feZ_feOne]
  exact mul_pow_P_sub_two _ fun h0 => h (feZ_eq_zero.1 h0)

/-- Settles O41: the identities hold in `ZMod P`, where `feZ` takes the operations one to one; the inverse is `fmul_finv`. -/
theorem fieldIdentities : Obligations.FieldIdentities := by
  unfold Obligations.FieldIdentities
  intro a b c
  refine ⟨?_, ?_, ?_, ?_, ?_, ?_, ?_, ?_, fmul_finv⟩
  all_goals
    rw [← feZ_inj]
    simp only [feZ_fadd, feZ_fsub, feZ_fmul, feZ_fneg, feZ_feOne, feZ_feZero]
    ring

end Sys2Proof.Machine
end

section
/-! PROOFS. The conditional select, swap and flag instructions: the masked forms of the rules compute the selections of C,
and what the flag instructions write to C (R450 to R456). -/

namespace Sys2Proof.Machine

/-! ### A field value as 255 bits (R101) -/

theorem fe_val_lt_two_pow (a : Fe) : a.val < 2 ^ 255 := a.isLt.trans P_lt

@[simp] theorem feBits_toNat (a : Fe) : (feBits a).toNat = a.val := by
  rw [feBits, BitVec.toNat_ofNat, Nat.mod_eq_of_lt (fe_val_lt_two_pow a)]

/-! ### Select and swap (R451, R452) -/

theorem condMask_true : condMask true = BitVec.allOnes 255 := rfl

theorem condMask_false : condMask false = 0#255 := rfl

/-- R451's masked form keeps one operand and clears the other. -/
theorem feBits_select (c : Bool) (a b : Fe) : feBits (select c a b) = maskSelect c a b := by
  cases c
  · simp only [maskSelect, condMask_false, BitVec.and_zero, BitVec.not_zero, BitVec.and_allOnes, BitVec.zero_or]
    rfl
  · simp only [maskSelect, condMask_true, BitVec.and_zero, BitVec.not_allOnes, BitVec.and_allOnes, BitVec.or_zero]
    rfl

/-- R452's masked form adds the difference of the operands to each, or nothing. -/
theorem feBits_select_swap (c : Bool) (a b : Fe) : (feBits (select c b a), feBits (select c a b)) = maskSwap c a b := by
  cases c
  · simp only [maskSwap, condMask_false, BitVec.and_zero, BitVec.xor_zero]
    rfl
  · have hz : feBits b ^^^ (feBits a ^^^ feBits b) = feBits a := by
      rw [BitVec.xor_comm (feBits a), ← BitVec.xor_assoc, BitVec.xor_self, BitVec.zero_xor]
    have hy : feBits a ^^^ (feBits a ^^^ feBits b) = feBits b := by
      rw [← BitVec.xor_assoc, BitVec.xor_self, BitVec.zero_xor]
    simp only [maskSwap, condMask_true, BitVec.and_allOnes, hy, hz]
    rfl

/-- Settles O42: the row, and the masked form by `feBits_select`. -/
theorem cselSelectsByC : Obligations.CselSelectsByC := by
  unfold Obligations.CselSelectsByC
  refine ⟨rowDecodes_of_instr (.csel 0 0 0), fun d a b s => ?_⟩
  refine ⟨_, exec_csel s d a b, wroteOnlyF_retireF .., readF_retireF .., ?_, feBits_toNat _⟩
  rw [readF_retireF, feBits_select, maskSelect]

/-- CSWAP's second write leaves the first one standing: where Y = Z the two write the same value (R452). -/
theorem readF_cswap_first (a b : FReg) (s : State) :
    (retireF b (select s.c (s.readF a) (s.readF b)) (s.setF a (select s.c (s.readF b) (s.readF a)))).readF a =
      select s.c (s.readF b) (s.readF a) := by
  obtain rfl | hne := eq_or_ne a b
  · rw [readF_retireF]
  · simp [retireF, hne]

/-- Settles O43: the row, the masked form by `feBits_select_swap`, and the frame of two register writes. -/
theorem cswapSwapsByC : Obligations.CswapSwapsByC := by
  unfold Obligations.CswapSwapsByC
  refine ⟨rowDecodes_of_instr (.cswap 0 0), fun a b s => ?_⟩
  obtain ⟨hy, hz⟩ := Prod.mk.inj (feBits_select_swap s.c (s.readF a) (s.readF b))
  obtain ⟨hretired, hothers, hsame⟩ := wroteOnlyF_retireF b (select s.c (s.readF a) (s.readF b))
    (s.setF a (select s.c (s.readF b) (s.readF a)))
  refine ⟨_, exec_cswap s a b, readF_cswap_first a b s, readF_retireF .., ?_, ?_, hretired, fun r ha hb => ?_, hsame⟩
  · rw [readF_cswap_first, hy]
  · rw [readF_retireF, hz]
  · rw [hothers r hb, State.readF_setF, if_neg ha]

/-! ### What the flag instructions write to C (R453 to R456) -/

@[simp] theorem retireC_c (b : Bool) (s : State) : (retireC b s).c = b := (retireC_spec b s).1

theorem wroteOnlyC_retireC (b : Bool) (s : State) : WroteOnlyC s (retireC b s) := (retireC_spec b s).2

theorem equalFlag_iff (a b : Fe) : equalFlag a b = true ↔ a = b := decide_eq_true_iff

/-- The little-endian digits to base 256 are the canonical 32-byte encoding of R453. -/
theorem fe_eq_iff_bytes (a b : Fe) : a = b ↔ ∀ j, j < 32 → a.val / 256 ^ j % 256 = b.val / 256 ^ j % 256 := by
  have hlt : ∀ x : Fe, x.val < 256 ^ 32 := fun x => (fe_val_lt_two_pow x).trans (by decide)
  refine ⟨?_, fun h => Fin.ext (eq_of_bytes _ _ 32 (hlt a) (hlt b) h)⟩
  rintro rfl j -
  rfl

/-- Settles O44: the row, the comparison, and `fe_eq_iff_bytes`. -/
theorem ceqComparesValues : Obligations.CeqComparesValues := by
  unfold Obligations.CeqComparesValues
  refine ⟨rowDecodes_of_instr (.ceq 0 0), fun a b s => ?_⟩
  have heq : (retireC (equalFlag (s.readF a) (s.readF b)) s).c = true ↔ s.readF a = s.readF b := by
    rw [retireC_c, equalFlag_iff]
  exact ⟨_, exec_ceq s a b, wroteOnlyC_retireC .., heq, heq.trans (fe_eq_iff_bytes _ _)⟩

theorem fieldBit_iff (a : Fe) (n : BitIx) : fieldBit a n = true ↔ a.val / 2 ^ n.val % 2 = 1 := by
  rw [fieldBit, Nat.testBit_eq_decide_div_mod_eq, decide_eq_true_iff]

theorem fieldBit_255 (a : Fe) : fieldBit a 255 = false := Nat.testBit_lt_two_pow (fe_val_lt_two_pow a)

theorem scalarBit_iff (v : BitVec 256) (n : BitIx) : scalarBit v n = true ↔ v.toNat / 2 ^ n.val % 2 = 1 := by
  rw [scalarBit, BitVec.getLsbD, Nat.testBit_eq_decide_div_mod_eq, decide_eq_true_iff]

/-- Settles O45: the rows, and the bits as binary digits; bit 255 by `fieldBit_255`. -/
theorem bitTestsCopyBitToC : Obligations.BitTestsCopyBitToC := by
  unfold Obligations.BitTestsCopyBitToC
  refine ⟨rowDecodes_of_instr (.cbitf 0 0), rowDecodes_of_instr (.cbits 0 0), fun a r n s => ⟨?_, ?_⟩⟩
  · refine ⟨_, exec_cbitf s a n, wroteOnlyC_retireC .., by rw [retireC_c, fieldBit_iff], ?_⟩
    rintro rfl
    rw [retireC_c, fieldBit_255]
  · exact ⟨_, exec_cbits s r n, wroteOnlyC_retireC .., by rw [retireC_c, scalarBit_iff]⟩

theorem flagOfMode_number (m : CflgMode) (c sg : Bool) :
    some (flagOfMode m c sg) = [false, true, sg, !c][m.number]? := by
  cases m <;> rfl

/-- Settles O46: the row, and the four modes by their numbers. -/
theorem cflgSetsC : Obligations.CflgSetsC := by
  unfold Obligations.CflgSetsC
  refine ⟨rowDecodes_of_instr (.cflg .zero), fun m s => ?_⟩
  exact ⟨_, exec_cflg s m, wroteOnlyC_retireC .., by rw [retireC_c, flagOfMode_number]⟩

end Sys2Proof.Machine
end

section
/-! PROOFS. The scalar instructions: what CLAMP writes, in bits and in bytes, and what RND does with an answer
(R501 to R503). -/

namespace Sys2Proof.Machine

@[simp] theorem readS_retireS (d : SReg) (v : BitVec 256) (s : State) : (retireS d v s).readS d = v :=
  (retireS_spec d v s).1

theorem wroteOnlyS_retireS (d : SReg) (v : BitVec 256) (s : State) : WroteOnlyS d s (retireS d v s) :=
  (retireS_spec d v s).2.1

theorem sameRng_retireS (d : SReg) (v : BitVec 256) (s : State) : SameRng s (retireS d v s) := (retireS_spec d v s).2.2

/-! ### The bits of the clamped value (R501) -/

theorem getLsbD_clampCleared {j : Nat} (hj : j < 256) :
    (BitVec.ofNat 256 (2 ^ 255 + 7)).getLsbD j = decide (j ≤ 2 ∨ j = 255) := by
  rw [BitVec.getLsbD_ofNat, decide_eq_true hj, Bool.true_and]
  obtain rfl | hlt : j = 255 ∨ j < 255 := by omega
  · rw [Nat.testBit_two_pow_add_eq]
    rfl
  · rw [Nat.testBit_two_pow_add_gt hlt, show 7 = 2 ^ 3 - 1 from rfl, Nat.testBit_two_pow_sub_one, decide_eq_decide]
    omega

theorem getLsbD_clampSet {j : Nat} (hj : j < 256) : (BitVec.ofNat 256 (2 ^ 254)).getLsbD j = decide (j = 254) := by
  rw [BitVec.getLsbD_ofNat, decide_eq_true hj, Bool.true_and, Nat.testBit_two_pow, decide_eq_decide, eq_comm]

theorem getLsbD_clampBits (v : BitVec 256) {j : Nat} (hj : j < 256) : (clampBits v).getLsbD j =
    if j ≤ 2 ∨ j = 255 then false else if j = 254 then true else v.getLsbD j := by
  have hbit : (clampBits v).getLsbD j = (v.getLsbD j && !decide (j ≤ 2 ∨ j = 255) || decide (j = 254)) := by
    rw [clampBits, BitVec.getLsbD_or, BitVec.getLsbD_and, BitVec.getLsbD_not, decide_eq_true hj, Bool.true_and,
      getLsbD_clampCleared hj, getLsbD_clampSet hj]
  rw [hbit]
  split
  · next hcleared =>
    have hne : j ≠ 254 := by omega
    simp [hcleared, hne]
  · next hkept => split <;> simp [*]

/-- Clamping fixes what it has clamped: the bits it writes do not depend on the value (R503). -/
@[simp] theorem clampBits_clampBits (v : BitVec 256) : clampBits (clampBits v) = clampBits v := by
  refine BitVec.eq_of_getLsbD_eq fun j hj => ?_
  rw [getLsbD_clampBits _ hj, getLsbD_clampBits _ hj]
  split_ifs <;> rfl

/-! ### The bytes of the clamped value (R501) -/

/-- Each byte of the clamped value is masked on its own, with that byte of the two masks. -/
theorem extractLsb'_clampBits (v : BitVec 256) (k : Nat) : (clampBits v).extractLsb' k 8 =
    (v.extractLsb' k 8 &&& (~~~BitVec.ofNat 256 (2 ^ 255 + 7)).extractLsb' k 8) |||
      (BitVec.ofNat 256 (2 ^ 254)).extractLsb' k 8 := by
  rw [clampBits, BitVec.extractLsb'_or, BitVec.extractLsb'_and]

theorem clampMasks_byte_inner : ∀ j ≤ 30, 1 ≤ j →
    (~~~BitVec.ofNat 256 (2 ^ 255 + 7)).extractLsb' (8 * j) 8 = BitVec.allOnes 8 ∧
      (BitVec.ofNat 256 (2 ^ 254)).extractLsb' (8 * j) 8 = 0#8 := by
  decide

theorem clampBits_byte_first (v : BitVec 256) : (clampBits v).extractLsb' 0 8 = v.extractLsb' 0 8 &&& 0xF8 := by
  have hset : (BitVec.ofNat 256 (2 ^ 254)).extractLsb' 0 8 = 0#8 := by decide
  rw [extractLsb'_clampBits, hset, BitVec.or_zero]
  rfl

theorem clampBits_byte_last (v : BitVec 256) :
    (clampBits v).extractLsb' 248 8 = (v.extractLsb' 248 8 &&& 0x7F) ||| 0x40 :=
  extractLsb'_clampBits v 248

theorem clampBits_byte_inner (v : BitVec 256) {j : Nat} (hlo : 1 ≤ j) (hhi : j ≤ 30) :
    (clampBits v).extractLsb' (8 * j) 8 = v.extractLsb' (8 * j) 8 := by
  obtain ⟨hkept, hset⟩ := clampMasks_byte_inner j hhi hlo
  rw [extractLsb'_clampBits, hkept, hset, BitVec.and_allOnes, BitVec.or_zero]

/-! ### CLAMP -/

/-- Settles O47: the row, the frame of one scalar write, and the bits and bytes of `clampBits`. -/
theorem clampMasksBits : Obligations.ClampMasksBits := by
  unfold Obligations.ClampMasksBits
  refine ⟨rowDecodes_of_instr (.clamp 0 0), fun d a s => ?_⟩
  refine ⟨_, exec_clamp s d a, wroteOnlyS_retireS .., sameRng_retireS .., ?_⟩
  rw [readS_retireS]
  exact ⟨fun _ => getLsbD_clampBits _, clampBits_byte_first _, clampBits_byte_last _, fun _ => clampBits_byte_inner _⟩

/-- Settles O48: the second CLAMP reads what the first wrote, which `clampBits` fixes (`clampBits_clampBits`). -/
theorem clampIsIdempotent : Obligations.ClampIsIdempotent := by
  unfold Obligations.ClampIsIdempotent
  intro d a s t u ht hu
  rw [exec_clamp, Host.Outcome.next.injEq] at ht hu
  subst ht hu
  rw [readS_retireS, readS_retireS, clampBits_clampBits]

/-! ### RND -/

/-- Settles O49: the row, and the answers: closing the request touches the RNG port alone, so that the write or the trap
after it is one from the state before. -/
theorem rndWritesAnswerOrTraps : Obligations.RndWritesAnswerOrTraps := by
  unfold Obligations.RndWritesAnswerOrTraps
  refine ⟨rowDecodes_of_instr (.rnd 0), fun d s => ⟨fun b hok => ?_, fun hfail => ?_⟩⟩
  · exact ⟨_, exec_rnd_ok s hok, wroteOnlyS_retireS d b s.closeRequest, readS_retireS ..⟩
  · exact ⟨_, exec_rnd_fail s hfail, takeTrap_spec s.closeRequest .rngFailure⟩

end Sys2Proof.Machine
end

section
/-! PROOFS. The birational map converter instructions: the values of M2E and E2M, the two inputs where they trap, and their
round trip: M2E takes u to y exactly when E2M takes y to u (R551 to R553). -/

namespace Sys2Proof.Machine

/-! ### The inputs that trap -/

@[simp] theorem feOne_val : feOne.val = 1 := by decide

/-- The denominator of M2E vanishes at u = -1 (R551). -/
theorem fadd_feOne_eq_feZero_iff (u : Fe) : fadd u feOne = feZero ↔ u.val = P - 1 := by
  have hneg : feZ (Fe.ofNat (P - 1)) = -1 := by simp [Nat.cast_sub P_pos]
  have hval : (Fe.ofNat (P - 1)).val = P - 1 := Nat.mod_eq_of_lt (Nat.sub_one_lt_of_lt P_pos)
  rw [← hval, ← Fin.ext_iff, ← feZ_inj, ← feZ_inj, hneg, feZ_fadd, feZ_feOne, feZ_feZero, add_eq_zero_iff_eq_neg]

/-- The denominator of E2M vanishes at y = 1 (R552). -/
theorem fsub_feOne_eq_feZero_iff (y : Fe) : fsub feOne y = feZero ↔ y.val = 1 := by
  rw [← feOne_val, ← Fin.ext_iff, ← feZ_inj, ← feZ_inj, feZ_fsub, feZ_feZero, sub_eq_zero, eq_comm]

theorem montToEd_eq_none_iff {u : Fe} : montToEd u = none ↔ u.val = P - 1 := by
  rw [← fadd_feOne_eq_feZero_iff, montToEd, ite_eq_left_iff]
  simp only [reduceCtorEq, imp_false, not_not]

theorem edToMont_eq_none_iff {y : Fe} : edToMont y = none ↔ y.val = 1 := by
  rw [← fsub_feOne_eq_feZero_iff, edToMont, ite_eq_left_iff]
  simp only [reduceCtorEq, imp_false, not_not]

theorem montToEd_of_ne {u : Fe} (h : u.val ≠ P - 1) :
    montToEd u = some (fmul (fsub u feOne) (finv (fadd u feOne))) :=
  if_neg (mt (fadd_feOne_eq_feZero_iff u).1 h)

theorem edToMont_of_ne {y : Fe} (h : y.val ≠ 1) :
    edToMont y = some (fmul (fadd feOne y) (finv (fsub feOne y))) :=
  if_neg (mt (fsub_feOne_eq_feZero_iff y).1 h)

/-! ### The values (R551, R552) -/

theorem fmul_finv_val (a b : Fe) {m n : Nat} (ha : a.val = m % P) (hb : b.val = n % P) :
    (fmul a (finv b)).val = m * n ^ (P - 2) % P := by
  rw [fmul_val, finv_val, ha, hb, ← Nat.pow_mod, ← Nat.mul_mod]

/-- Settles O51: the row, the quotient where u + 1 is not 0, and the trap where it is. -/
theorem m2eMapsOrTraps : Obligations.M2eMapsOrTraps := by
  unfold Obligations.M2eMapsOrTraps
  refine ⟨rowDecodes_of_instr (.m2e 0 0), fun d a s => ⟨fun hu => ?_, fun hu => ?_⟩⟩
  · refine ⟨_, exec_m2e_some s (montToEd_of_ne hu), wroteOnlyF_retireF .., ?_⟩
    rw [readF_retireF]
    refine fmul_finv_val _ _ ?_ ?_
    · rw [fsub_val, feOne_val, Nat.add_sub_assoc P_pos]
    · rw [fadd_val, feOne_val]
  · exact ⟨_, exec_m2e_none s (montToEd_eq_none_iff.2 hu), takeTrap_spec .., takeTrap_rng ..⟩

/-- Settles O52: the row, the quotient where 1 - y is not 0, and the trap where it is. -/
theorem e2mMapsOrTraps : Obligations.E2mMapsOrTraps := by
  unfold Obligations.E2mMapsOrTraps
  refine ⟨rowDecodes_of_instr (.e2m 0 0), fun d a s => ⟨fun hy => ?_, fun hy => ?_⟩⟩
  · refine ⟨_, exec_e2m_some s (edToMont_of_ne hy), wroteOnlyF_retireF .., ?_⟩
    rw [readF_retireF]
    refine fmul_finv_val _ _ ?_ ?_
    · rw [fadd_val, feOne_val]
    · rw [fsub_val, feOne_val, Nat.add_comm P, Nat.add_sub_assoc (s.readF a).isLt.le]
  · exact ⟨_, exec_e2m_none s (edToMont_eq_none_iff.2 hy), takeTrap_spec .., takeTrap_rng ..⟩

/-! ### The round trip (R553) -/

/-- The quotient, by its defining equation. -/
theorem fmul_finv_eq_iff {a b c : Fe} (hb : b ≠ feZero) : fmul a (finv b) = c ↔ feZ c * feZ b = feZ a := by
  have : Fact (Nat.Prime P) := ⟨Laws.P_prime⟩
  have hb' : feZ b ≠ 0 := mt feZ_eq_zero.1 hb
  have hinv : feZ (finv b) = (feZ b)⁻¹ :=
    eq_inv_of_mul_eq_one_right (by rw [← feZ_fmul, fmul_finv hb, feZ_feOne])
  rw [← feZ_inj, feZ_fmul, hinv, mul_inv_eq_iff_eq_mul₀ hb', eq_comm]

/-- The graph of a checked quotient is one equation where no input has numerator and denominator 0. -/
theorem checkedQuotient_eq_some_iff {a b c : Fe} (hab : b = feZero → a ≠ feZero) :
    (if b = feZero then none else some (fmul a (finv b))) = some c ↔ feZ c * feZ b = feZ a := by
  split
  · next hb =>
    rw [hb, feZ_feZero, mul_zero, eq_comm (a := (0 : ZMod P)), feZ_eq_zero]
    exact iff_of_false nofun (hab hb)
  · next hb => rw [Option.some.injEq, fmul_finv_eq_iff hb]

/-- M2E's graph, with no condition on u: at u = -1 the equation would say 0 = -2. -/
theorem montToEd_eq_some_iff {u y : Fe} : montToEd u = some y ↔ feZ y * (feZ u + 1) = feZ u - 1 := by
  rw [montToEd, checkedQuotient_eq_some_iff, feZ_fadd, feZ_fsub, feZ_feOne]
  intro hden hnum
  rw [← feZ_eq_zero, feZ_fadd, feZ_feOne] at hden
  rw [← feZ_eq_zero, feZ_fsub, feZ_feOne] at hnum
  exact two_ne_zero_P (by linear_combination hden - hnum)

/-- E2M's graph, with no condition on y: at y = 1 the equation would say 0 = 2. -/
theorem edToMont_eq_some_iff {u y : Fe} : edToMont y = some u ↔ feZ u * (1 - feZ y) = 1 + feZ y := by
  rw [edToMont, checkedQuotient_eq_some_iff, feZ_fadd, feZ_fsub, feZ_feOne]
  intro hden hnum
  rw [← feZ_eq_zero, feZ_fsub, feZ_feOne] at hden
  rw [← feZ_eq_zero, feZ_fadd, feZ_feOne] at hnum
  exact two_ne_zero_P (by linear_combination hden + hnum)

/-- The two graphs are one curve, y u + y = u - 1. -/
theorem montToEd_eq_some_iff_edToMont {u y : Fe} : montToEd u = some y ↔ edToMont y = some u := by
  rw [montToEd_eq_some_iff, edToMont_eq_some_iff]
  exact ⟨fun h => by linear_combination -h, fun h => by linear_combination -h⟩

/-- Settles O53: the first instruction's value lies on the graph of the second (`montToEd_eq_some_iff_edToMont`), which is
therefore defined there and answers the source. -/
theorem birationalRoundTrip : Obligations.BirationalRoundTrip := by
  unfold Obligations.BirationalRoundTrip
  refine ⟨fun d e a s hu => ?_, fun d e a s hy => ?_⟩
  · obtain ⟨y, hto⟩ := Option.ne_none_iff_exists'.1 (mt montToEd_eq_none_iff.1 hu)
    have hback : edToMont ((retireF d y s).readF d) = some (s.readF a) := by
      rwa [readF_retireF, ← montToEd_eq_some_iff_edToMont]
    exact ⟨_, _, exec_m2e_some s hto, mt edToMont_eq_none_iff.2 (hback ▸ Option.some_ne_none _),
      exec_e2m_some _ hback, readF_retireF .., wroteOnlyF_retireF ..⟩
  · obtain ⟨u, hto⟩ := Option.ne_none_iff_exists'.1 (mt edToMont_eq_none_iff.1 hy)
    have hback : montToEd ((retireF d u s).readF d) = some (s.readF a) := by
      rwa [readF_retireF, montToEd_eq_some_iff_edToMont]
    exact ⟨_, _, exec_e2m_some s hto, mt montToEd_eq_none_iff.2 (hback ▸ Option.some_ne_none _),
      exec_m2e_some _ hback, readF_retireF .., wroteOnlyF_retireF ..⟩

end Sys2Proof.Machine
end

section
/-! PROOFS. The codec: what LDU, LDE and LDS read of a slot, what STF and STS write to it, and that each load gives back
what its store wrote (R600 to R606). -/

namespace Sys2Proof.Machine

/-! ### What the loads decode (R601, R602) -/

theorem decodeU_val (v : Nat) : (decodeU v).val = v % 2 ^ 255 % P := Fe_ofNat_val _

/-- The Montgomery decode undoes the canonical encoding. -/
theorem decodeU_fe_val (a : Fe) : decodeU a.val = a := by
  rw [decodeU, Nat.mod_eq_of_lt (fe_val_lt_two_pow a), Fe_ofNat_self]

/-- The Edwards decode accepts every canonical encoding, strict or not, with sign bit 0. -/
theorem decodeEd_fe_val (strict : Bool) (a : Fe) : decodeEd strict a.val = some (a, false) := by
  have hmod : a.val % 2 ^ 255 = a.val := Nat.mod_eq_of_lt (fe_val_lt_two_pow a)
  have hcanonical : ¬(a.val % 2 ^ 255 ≥ P ∧ strict = true) := fun h => (hmod ▸ h.1).not_gt a.isLt
  rw [decodeEd_some hcanonical, hmod, Fe_ofNat_self, Nat.testBit_lt_two_pow (fe_val_lt_two_pow a)]

/-- Settles O54: the row, the frame of one field write, and the slot as the sum of its bytes. -/
theorem lduDecodesMontgomeryU : Obligations.LduDecodesMontgomeryU := by
  unfold Obligations.LduDecodesMontgomeryU
  refine ⟨rowDecodes_of_instr (.ldu 0 0), fun d k s => ?_⟩
  exact ⟨_, exec_ldu s d k, wroteOnlyF_retireF .., by rw [readF_retireF, decodeU_val, State.slotValue_eq_sum]⟩

/-- Settles O55: the row, and the two cases of the Edwards decode of the slot: the write of y and SG, or the trap. -/
theorem ldeDecodesEdwardsY : Obligations.LdeDecodesEdwardsY := by
  unfold Obligations.LdeDecodesEdwardsY
  refine ⟨rowDecodes_of_instr (.lde 0 0), fun d k s => ?_⟩
  dsimp only
  rw [← State.slotValue_eq_sum]
  refine ⟨fun hvalid => ?_, fun hy hstrict => ?_⟩
  · obtain ⟨hread, hsg, hframe⟩ := retireF_setSG_spec d (Fe.ofNat (s.slotValue k % 2 ^ 255)) ((s.slotValue k).testBit 255) s
    refine ⟨_, exec_lde_some s (decodeEd_some hvalid), ?_, ?_, hframe⟩
    · rw [hread, Fe_ofNat_val]
    · rw [hsg, testBit_255 (s.slotValue_lt k)]
  · exact ⟨_, exec_lde_none s (decodeEd_none hy hstrict), takeTrap_spec .., takeTrap_rng ..⟩

/-- Settles O56: the row, the frame of one scalar write, and that a slot holds 256 bits (`slotValue_lt`). -/
theorem ldsLoadsRawScalar : Obligations.LdsLoadsRawScalar := by
  unfold Obligations.LdsLoadsRawScalar
  refine ⟨rowDecodes_of_instr (.lds 0 0), fun d k s => ?_⟩
  refine ⟨_, exec_lds s d k, wroteOnlyS_retireS .., sameRng_retireS .., ?_⟩
  rw [readS_retireS, BitVec.toNat_ofNat, Nat.mod_eq_of_lt (s.slotValue_lt k), State.slotValue_eq_sum]

/-! ### What the stores write (R604, R605) -/

theorem wroteOnlySlot_retireSlot (k : Slot) (v : Nat) (s : State) : WroteOnlySlot k s (retireSlot k v s) :=
  (retireSlot_spec k v s).2

/-- A stored 256-bit value is read back whole. -/
theorem slotValue_retireSlot {v : Nat} (hv : v < 2 ^ 256) (k : Slot) (s : State) : (retireSlot k v s).slotValue k = v :=
  (retireSlot_spec k v s).1.trans (Nat.mod_eq_of_lt hv)

theorem slotValue_retireSlot_fe (a : Fe) (k : Slot) (s : State) : (retireSlot k a.val s).slotValue k = a.val :=
  slotValue_retireSlot ((fe_val_lt_two_pow a).trans (by decide)) k s

theorem retireSlot_byte_toNat (k : Slot) (v : Nat) (s : State) {j : Nat} (hj : j < 32) :
    ((retireSlot k v s).dmemByte (slotOffset k + j)).toNat = v / 256 ^ j % 256 := by
  rw [retireSlot_byte k v s j hj, BitVec.toNat_ofNat]

/-- Bit 7 of the last byte is bit 255 of the value, the sign bit of an encoding. -/
theorem retireSlot_signBit (k : Slot) (v : Nat) (s : State) :
    ((retireSlot k v s).dmemByte (slotOffset k + 31)).getLsbD 7 = v.testBit 255 := by
  rw [retireSlot_byte k v s 31 (by decide), BitVec.getLsbD_ofNat, show 256 ^ 31 = 2 ^ 248 from rfl,
    Nat.testBit_div_two_pow, decide_eq_true (by decide), Bool.true_and]

/-- Settles O57: the row, the frame and the bytes of one slot write, and the sign bit, which no field value reaches. -/
theorem stfEncodesFieldValue : Obligations.StfEncodesFieldValue := by
  unfold Obligations.StfEncodesFieldValue
  refine ⟨rowDecodes_of_instr (.stf 0 0), fun k r s => ?_⟩
  refine ⟨_, exec_stf s k r, wroteOnlySlot_retireSlot .., fun j => retireSlot_byte_toNat k _ s, ?_⟩
  rw [retireSlot_signBit, Nat.testBit_lt_two_pow (fe_val_lt_two_pow _)]

/-- Settles O58: the row, and the frame and the bytes of one slot write. -/
theorem stsStoresRawScalar : Obligations.StsStoresRawScalar := by
  unfold Obligations.StsStoresRawScalar
  refine ⟨rowDecodes_of_instr (.sts 0 0), fun k r s => ?_⟩
  exact ⟨_, exec_sts s k r, wroteOnlySlot_retireSlot .., fun j => retireSlot_byte_toNat k _ s⟩

/-! ### The round trips (R606) -/

theorem exec_ldu_retireSlot (d : FReg) (k : Slot) (a : Fe) (s : State) :
    exec (.ldu d k) (retireSlot k a.val s) = .next (retireF d a (retireSlot k a.val s)) := by
  rw [exec_ldu, slotValue_retireSlot_fe, decodeU_fe_val]

theorem exec_lde_retireSlot (d : FReg) (k : Slot) (a : Fe) (s : State) : exec (.lde d k) (retireSlot k a.val s) =
    .next (retireF d a ((retireSlot k a.val s).setSG false)) :=
  exec_lde_some _ (by rw [slotValue_retireSlot_fe, decodeEd_fe_val])

theorem exec_lds_retireSlot (d : SReg) (k : Slot) (v : BitVec 256) (s : State) :
    exec (.lds d k) (retireSlot k v.toNat s) = .next (retireS d v (retireSlot k v.toNat s)) := by
  rw [exec_lds, slotValue_retireSlot v.isLt, BitVec.ofNat_toNat, BitVec.setWidth_eq]

/-- The stored bytes tell field values apart, whatever the states were. -/
theorem retireSlot_bytes_eq_iff (k : Slot) (a b : Fe) (s s' : State) :
    (∀ j, j < 32 → (retireSlot k a.val s).dmemByte (slotOffset k + j) = (retireSlot k b.val s').dmemByte (slotOffset k + j)) ↔
      a = b := by
  rw [fe_eq_iff_bytes]
  refine forall₂_congr fun j hj => ?_
  rw [← BitVec.toNat_inj, retireSlot_byte_toNat k _ s hj, retireSlot_byte_toNat k _ s' hj]

/-- Settles O59: each load after its store, and `retireSlot_bytes_eq_iff`. -/
theorem codecRoundTrips : Obligations.CodecRoundTrips := by
  unfold Obligations.CodecRoundTrips
  refine ⟨fun k r d s t ht => ?_, fun k r d s t ht => ?_, fun k r q s t u ht hu => ?_⟩
  · rw [exec_stf, Host.Outcome.next.injEq] at ht
    subst ht
    obtain ⟨hread, hsg, -, hretired, -⟩ := retireF_setSG_spec d (s.readF r) false (retireSlot k (s.readF r).val s)
    exact ⟨⟨_, exec_ldu_retireSlot .., readF_retireF ..⟩, ⟨_, exec_lde_retireSlot .., hread, hsg, hretired⟩⟩
  · rw [exec_sts, Host.Outcome.next.injEq] at ht
    subst ht
    exact ⟨_, exec_lds_retireSlot .., readS_retireS ..⟩
  · rw [exec_stf, Host.Outcome.next.injEq] at ht hu
    subst ht hu
    exact retireSlot_bytes_eq_iff ..

end Sys2Proof.Machine
end

section
/-! PROOFS. The sequencer's cycle, case by case, and HALT and NOP (R650 to R652). -/

namespace Sys2Proof.Machine

/-! ### The cases of the cycle (R650) -/

theorem seqStep_bound {s : State} (hb : s.busy = true) (hpc : s.pc.toNat = imemWords) :
    seqStep s = .next (s.takeTrap .fetchBound) := by
  rw [seqStep, if_pos hb, if_pos hpc]

theorem seqStep_instr {s : State} {i : Instr} (hb : s.busy = true) (hpc : s.pc.toNat < imemWords)
    (hd : decode (s.imemWord s.pc.toNat) = .ok i) : seqStep s = exec i s := by
  rw [seqStep, if_pos hb, if_neg hpc.ne, if_pos hpc, hd]

/-- The cycle of a run answers the state after the effect it fetches. -/
theorem FetchedEffect.seqStep_eq {s : State} {e : Effect} (h : FetchedEffect s e) (hb : s.busy = true) :
    seqStep s = .next (e.apply s) := by
  cases h with
  | bound hpc => exact seqStep_bound hb hpc
  | illegal hpc hd => exact seqStep_illegal hb hpc hd
  | instr i hpc hd => rw [seqStep_instr hb hpc hd, exec_eq_effect]

theorem State.popTurn_of_turns_nil {s : State} (h : s.turns = []) : s.popTurn = s := by
  cases s
  subst h
  rfl

theorem State.turn_of_turns_nil {s : State} (h : s.turns = []) : s.turn = .sequencer := by
  rw [State.turn, h]
  rfl

/-- With no turns listed every step is the sequencer's cycle (log entry 3). -/
theorem step_of_turns_nil {s : State} (h : s.turns = []) : step s = seqStep s := by
  rw [step_sequencer (State.turn_of_turns_nil h), State.popTurn_of_turns_nil h]

/-- Settles O6: the turn is the sequencer's cycle, and the cycle is exec of what it decodes. -/
theorem stepRunsDecodedInstruction : Obligations.StepRunsDecodedInstruction := by
  unfold Obligations.StepRunsDecodedInstruction
  intro s i hturn hb hpc hd
  exact ⟨(step_sequencer hturn).trans (seqStep_instr (s := s.popTurn) hb hpc hd),
    fun hnil => (step_of_turns_nil hnil).trans (seqStep_instr hb hpc hd)⟩

/-! ### How an instruction ends -/

theorem halted_endRun (s : State) : Halted s (s.count.endRun false) := by
  obtain ⟨hend, hfault⟩ := endRun_spec s.count false
  exact ⟨hend, rfl, hfault, rfl, rfl⟩

theorem effect_eq_halt {i : Instr} {s : State} (h : effect i s = .halt) : i = .halt := by
  cases i
  case halt => rfl
  case sqrt d a => cases hr : fsqrt (s.readF a) <;> simp_all [effect, Effect.writeOrTrap]
  case m2e d a => cases hr : montToEd (s.readF a) <;> simp_all [effect, Effect.writeOrTrap]
  case e2m d a => cases hr : edToMont (s.readF a) <;> simp_all [effect, Effect.writeOrTrap]
  case lde d k => cases hr : decodeEd s.strict (s.slotValue k) <;> simp_all [effect, Effect.ofEdwards]
  case rnd d => cases hr : s.rngAnswer <;> simp_all [effect, Effect.ofAnswer]
  case cswap a b => cases hc : s.c <;> simp_all [effect]
  all_goals cases h

theorem Effect.ofAnswer_eq_await {d : SReg} {a : RngAnswer} (h : ofAnswer d a = .await) : a = .silent := by
  cases a with
  | silent => rfl
  | ok | fail => cases h

/-- What an instruction does: it retires, ends the run, raises its own cause, or awaits the RNG (R650, R709, R811). -/
theorem effect_outcome (i : Instr) (s : State) :
    (i ≠ .halt ∧ Retired s ((effect i s).apply s) ∧ SameControl s ((effect i s).apply s)) ∨
      (i = .halt ∧ Halted s ((effect i s).apply s)) ∨
      (∃ c, ownCause i = some c ∧ Trapped c s ((effect i s).apply s)) ∨
      ∃ sd, i = .rnd sd ∧ s.rngAnswer = .silent ∧ (effect i s).apply s = s.awaitRng := by
  cases hr : (effect i s).retires
  · cases he : effect i s with
    | halt => exact .inr (.inl ⟨effect_eq_halt he, halted_endRun s⟩)
    | trap c => exact .inr (.inr (.inl ⟨c, effect_trap he, takeTrap_spec s c⟩))
    | rngFailed =>
      obtain ⟨d, rfl⟩ := (effect_usesRng i s).1 (by rw [he]; rfl)
      exact .inr (.inr (.inl ⟨.rngFailure, rfl, takeTrap_spec s.closeRequest .rngFailure⟩))
    | await =>
      obtain ⟨d, rfl⟩ := (effect_usesRng i s).1 (by rw [he]; rfl)
      exact .inr (.inr (.inr ⟨d, rfl, Effect.ofAnswer_eq_await he, rfl⟩))
    | _ => simp [he, Effect.retires] at hr
  · have hne : i ≠ .halt := by
      rintro rfl
      cases hr
    exact .inl ⟨hne, Effect.retired_of_retires hr s⟩

/-- Settles O7: the four branches of the cycle, the last of them by what an instruction can do (`effect_outcome`). -/
theorem sequencerCycle : Obligations.SequencerCycle := by
  unfold Obligations.SequencerCycle
  intro s hturn
  rw [step_sequencer hturn]
  refine ⟨fun hi => seqStep_idle hi, fun hb hpc => ?_, fun hb hpc hd => ?_, fun i hb hpc hd => ?_⟩
  · exact ⟨_, seqStep_bound (s := s.popTurn) hb hpc, takeTrap_spec .., takeTrap_rng s.popTurn _⟩
  · exact ⟨_, seqStep_illegal (s := s.popTurn) hb hpc hd, takeTrap_spec .., takeTrap_rng s.popTurn _⟩
  · rw [seqStep_instr (s := s.popTurn) hb hpc hd, exec_eq_effect]
    exact ⟨_, rfl, effect_outcome i s.popTurn⟩

/-- Settles O60: the two rows, and what the end of a run and retiring do. -/
theorem haltEndsRunAndNopAdvances : Obligations.HaltEndsRunAndNopAdvances := by
  unfold Obligations.HaltEndsRunAndNopAdvances
  exact ⟨rowDecodes_of_instr .halt, rowDecodes_of_instr .nop,
    fun s => ⟨_, exec_halt s, halted_endRun s, ⟨rfl, rfl, rfl⟩⟩, exec_nop⟩

end Sys2Proof.Machine
end

section
/-! PROOFS. What an instruction but RND writes, and what a run that fetches no RND leaves, is a function of its inputs
(R654): two runs that look alike take the same effects, and a host access between them changes nothing that a run reads. -/

namespace Sys2Proof.Machine

/-! ### What an instruction reads and writes -/

/-- The registers, the flags and the bytes of DMEM. -/
structure DataView where
  f : FReg → Fe
  sc : SReg → BitVec 256
  c : Bool
  sg : Bool
  dmem : Nat → Byte

def State.dataView (s : State) : DataView := ⟨s.readF, s.readS, s.c, s.sg, s.dmemByte⟩

theorem dataView_eq_iff {s s' : State} :
    s'.dataView = s.dataView ↔ SameFields s s' ∧ SameScalars s s' ∧ SameFlags s s' ∧ SameMemory s s' := by
  simp only [State.dataView, DataView.mk.injEq, funext_iff, SameFields, SameScalars, SameFlags, SameMemory, and_assoc]

/-- The effect of an instruction but RND is a function of the data and STRICT. -/
theorem effect_eq_of_dataView {i : Instr} {s s' : State} (hi : ∀ sd, i ≠ .rnd sd) (h : s'.dataView = s.dataView)
    (hstrict : s'.strict = s.strict) : effect i s' = effect i s := by
  obtain ⟨hf, hs, ⟨hc, hsg⟩, hmem⟩ := dataView_eq_iff.1 h
  cases i
  case rnd d => exact absurd rfl (hi d)
  all_goals simp only [effect, hf _, hs _, hc, hsg, hstrict, slotValue_congr hmem]

/-- A slot write leaves the same data wherever it finds the same data. -/
theorem retireSlot_dataView (k : Slot) (v : Nat) {s s' : State} (h : s'.dataView = s.dataView) :
    (retireSlot k v s').dataView = (retireSlot k v s).dataView := by
  obtain ⟨hf, hs, ⟨hc, hsg⟩, hmem⟩ := dataView_eq_iff.1 h
  obtain ⟨-, hf₁, hs₁, ⟨hc₁, hsg₁⟩, hout, -⟩ := wroteOnlySlot_retireSlot k v s
  obtain ⟨-, hf₁', hs₁', ⟨hc₁', hsg₁'⟩, hout', -⟩ := wroteOnlySlot_retireSlot k v s'
  refine dataView_eq_iff.2 ⟨fun r => by rw [hf₁', hf₁, hf], fun r => by rw [hs₁', hs₁, hs],
    ⟨by rw [hc₁', hc₁, hc], by rw [hsg₁', hsg₁, hsg]⟩, fun a => ?_⟩
  by_cases ha : slotOffset k ≤ a ∧ a < slotOffset k + 32
  · exact Effect.dmemByte_apply_congr (e := .writeSlot k v) s s' rfl ha.1 ha.2
  · rw [hout' a (by omega), hout a (by omega), hmem]

/-- So does every effect. -/
theorem Effect.dataView_apply (e : Effect) {s s' : State} (h : s'.dataView = s.dataView) :
    (e.apply s').dataView = (e.apply s).dataView := by
  cases e with
  | writeSlot k v => exact retireSlot_dataView k v h
  | _ =>
    obtain ⟨hf, hs, ⟨hc, hsg⟩, hmem⟩ := dataView_eq_iff.1 h
    refine dataView_eq_iff.2 ⟨fun r => ?_, fun r => ?_, ⟨?_, ?_⟩, fun a => ?_⟩ <;>
      simp [apply, retireF, retireS, retireC, hf _, hs _, hc, hsg, hmem _]

/-! ### What a run reads and writes -/

/-- All that a run without RND reads or writes until it ends. -/
structure RunView where
  data : DataView
  word : Nat → Word
  pc : BitVec 14
  retired : BitVec 32
  strict : Bool
  busy : Bool
  faulted : Bool
  cause : Cause
  epc : BitVec 14

def State.runView (s : State) : RunView :=
  ⟨s.dataView, s.imemWord, s.pc, s.retired, s.strict, s.busy, s.faulted, s.cause, s.epc⟩

/-- Beside the view, the states of two like runs agree on DONE and on the PC CSR, which a run sets where it ends. -/
theorem runAgree_iff {s s' : State} : RunAgree s s' ∧ (∀ j, s'.imemWord j = s.imemWord j) ↔
    s'.runView = s.runView ∧ s'.done = s.done ∧ (s.busy = false → s'.pcCsr = s.pcCsr) := by
  simp only [State.runView, RunView.mk.injEq, dataView_eq_iff, funext_iff, RunAgree]
  tauto

theorem Effect.runView_apply (e : Effect) {s s' : State} (h : s'.runView = s.runView) :
    (e.apply s').runView = (e.apply s).runView := by
  have hdata := e.dataView_apply (congrArg RunView.data h)
  have hword : (e.apply s').imemWord = (e.apply s).imemWord := funext fun j => by
    rw [(e.sameHostSpaces s').imemWord_eq, (e.sameHostSpaces s).imemWord_eq]
    exact congrFun (congrArg RunView.word h) j
  simp only [State.runView, RunView.mk.injEq] at h
  obtain ⟨-, -, hpc, hret, hstrict, hbusy, hfault, hcause, hepc⟩ := h
  simp only [State.runView, RunView.mk.injEq, hdata, hword, true_and]
  cases e <;> simp [apply, retireF, retireS, retireC, retireSlot, *]

theorem Effect.done_apply (e : Effect) {s s' : State} (h : s'.done = s.done) :
    (e.apply s').done = (e.apply s).done := by
  cases e <;> simp [apply, retireF, retireS, retireC, retireSlot, h]

theorem Effect.runEnded_of_not_busy {e : Effect} {s : State} (hb : s.busy = true) (hend : (e.apply s).busy = false) :
    RunEnded s (e.apply s) := by
  obtain ⟨-, -, -, -, -, hbusy, -⟩ | ⟨hended, -⟩ | ⟨c, hended, -⟩ | hawait := e.apply_cases s
  · exact absurd (hbusy.trans hb) (ne_true_of_eq_false hend)
  · exact hended
  · exact hended
  · rw [hawait] at hend
    exact absurd hb (ne_true_of_eq_false hend)

/-- An effect that ends like runs sets DONE and the PC CSR alike, whatever they were before (R806). -/
theorem Effect.done_pcCsr_of_ends {e : Effect} {s s' : State} (hb : s.busy = true) (hview : s'.runView = s.runView)
    (hend : (e.apply s).busy = false) :
    (e.apply s').done = (e.apply s).done ∧ (e.apply s').pcCsr = (e.apply s).pcCsr := by
  have hb' : s'.busy = true := (congrArg RunView.busy hview).trans hb
  have hend' : (e.apply s').busy = false := (congrArg RunView.busy (e.runView_apply hview)).trans hend
  have hpc : s'.pc = s.pc := congrArg RunView.pc hview
  obtain ⟨-, hdone, -, hcsr, -⟩ := runEnded_of_not_busy hb hend
  obtain ⟨-, hdone', -, hcsr', -⟩ := runEnded_of_not_busy hb' hend'
  rw [hdone, hdone', hcsr, hcsr', hpc]
  exact ⟨rfl, rfl⟩

/-- Where the view is the same the cycle fetches the same effect, but for an RND's. -/
theorem FetchedEffect.of_runView {s s' : State} {e : Effect} (h : FetchedEffect s e) (hrng : e.usesRng = false)
    (hview : s'.runView = s.runView) : FetchedEffect s' e := by
  have hpc : s'.pc = s.pc := congrArg RunView.pc hview
  have hword : s'.imemWord = s.imemWord := congrArg RunView.word hview
  cases h with
  | bound h => exact .bound (by rw [hpc, h])
  | illegal hlt hd => exact .illegal (by rw [hpc]; exact hlt) (by rw [hpc, hword]; exact hd)
  | instr i hlt hd =>
    have hi : ∀ sd, i ≠ .rnd sd := fun sd hsd =>
      absurd ((effect_usesRng i s).2 ⟨sd, hsd⟩) (ne_true_of_eq_false hrng)
    rw [← effect_eq_of_dataView hi (congrArg RunView.data hview) (congrArg RunView.strict hview)]
    exact .instr i (by rw [hpc]; exact hlt) (by rw [hpc, hword]; exact hd)

/-! ### Runs that fetch no RND -/

theorem usesRng_eq_false_of_fetchesNoRnd {n : Nat} {s s₀ : State} {e : Effect} (h : FetchesNoRnd (n + 1) s)
    (hb : s.busy = true) (hview : s₀.runView = s.runView) (he : FetchedEffect s₀ e) : e.usesRng = false := by
  have hpc₀ : s₀.pc = s.pc := congrArg RunView.pc hview
  have hword : s₀.imemWord = s.imemWord := congrArg RunView.word hview
  refine Bool.eq_false_iff.2 fun hu => ?_
  obtain ⟨hpc, sd, hd⟩ := he.rnd_of_usesRng hu
  rw [hpc₀] at hpc
  rw [hpc₀, hword] at hd
  exact h 0 s sd (by omega) rfl hb hpc hd

theorem fetchesNoRnd_of_step {n : Nat} {s u : State} (h : FetchesNoRnd (n + 1) s) (hs : step s = .next u) :
    FetchesNoRnd n u := fun m v sd hm hv =>
  h (m + 1) v sd (by omega) ((runSteps_succ hs m).trans hv)

theorem FetchedEffect.apply_pc_le {s : State} {e : Effect} (h : FetchedEffect s e) (hpc : s.pc.toNat ≤ imemWords) :
    (e.apply s).pc.toNat ≤ imemWords := by
  cases hr : e.retires
  · rwa [Effect.pc_of_not_retires hr]
  · obtain ⟨hnext, -⟩ := (Effect.retired_iff e s).2 hr
    have hlt := h.pc_lt_of_retires hr
    simp only [imemWords] at hlt ⊢
    rw [hnext]
    bv_omega

/-- Two like runs without host turns stay alike in lockstep. -/
theorem runSteps_agree {n : Nat} {s s' : State} (hpc : s.pc.toNat ≤ imemWords) (hturns : s.turns = [])
    (hturns' : s'.turns = []) (hagree : RunAgree s s') (hword : ∀ j, s'.imemWord j = s.imemWord j)
    (hno : FetchesNoRnd n s) :
    ∃ t t', runSteps n s = .next t ∧ runSteps n s' = .next t' ∧ RunAgree t t' := by
  induction n generalizing s s' with
  | zero => exact ⟨s, s', rfl, rfl, hagree⟩
  | succ n ih =>
    obtain ⟨hview, hdone, -⟩ := runAgree_iff.1 ⟨hagree, hword⟩
    cases hb : s.busy
    · have hb' : s'.busy = false := (congrArg RunView.busy hview).trans hb
      have hs : step s = .next s := (step_of_turns_nil hturns).trans (seqStep_idle hb)
      have hs' : step s' = .next s' := (step_of_turns_nil hturns').trans (seqStep_idle hb')
      rw [runSteps_succ hs, runSteps_succ hs']
      exact ih hpc hturns hturns' hagree hword (fetchesNoRnd_of_step hno hs)
    · have hb' : s'.busy = true := (congrArg RunView.busy hview).trans hb
      obtain ⟨e, he, hseq⟩ := seqStep_fetched hb hpc
      have he' := he.of_runView (usesRng_eq_false_of_fetchesNoRnd hno hb rfl he) hview
      have hs : step s = .next (e.apply s) := (step_of_turns_nil hturns).trans hseq
      have hs' : step s' = .next (e.apply s') := (step_of_turns_nil hturns').trans (he'.seqStep_eq hb')
      obtain ⟨hagree', hword'⟩ := runAgree_iff.2 ⟨e.runView_apply hview, e.done_apply hdone,
        fun hend => (Effect.done_pcCsr_of_ends hb hview hend).2⟩
      rw [runSteps_succ hs, runSteps_succ hs']
      exact ih (he.apply_pc_le hpc) ((e.sameHostSpaces s).turns.trans hturns)
        ((e.sameHostSpaces s').turns.trans hturns') hagree' hword' (fetchesNoRnd_of_step hno hs)

/-! ### Runs with host turns between -/

theorem runEndsAt_succ_iff {n : Nat} {s u t : State} (hb : s.busy = true) (hs : step s = .next u) :
    RunEndsAt (n + 1) s t ↔ RunEndsAt n u t := by
  rw [RunEndsAt, RunEndsAt, runSteps_succ hs]
  refine and_congr_right fun _ => and_congr_right fun _ => ⟨fun h m v hm hv => ?_, fun h m v hm hv => ?_⟩
  · exact h (m + 1) v (by omega) ((runSteps_succ hs m).trans hv)
  · cases m with
    | zero =>
      injection hv with hv
      exact hv ▸ hb
    | succ m => exact h m v (by omega) ((runSteps_succ hs m).symm.trans hv)

theorem runEndsAt_zero {s : State} (hi : s.busy = false) : RunEndsAt 0 s s :=
  ⟨rfl, hi, fun _ _ hm => absurd hm (Nat.not_lt_zero _)⟩

/-- An idle machine has no run left to end. -/
theorem runEndsAt_eq_of_idle {n : Nat} {s t : State} (h : RunEndsAt n s t) (hi : s.busy = false) : t = s := by
  obtain ⟨hrun, -, hbusy⟩ := h
  cases n with
  | zero => injection hrun with hrun; exact hrun.symm
  | succ n => exact absurd (hbusy 0 s (by omega) rfl) (ne_true_of_eq_false hi)

/-- The run in hand at `s'` ends in a state like `t`. -/
def EndsLike (t s' : State) : Prop := ∃ n' t', RunEndsAt n' s' t' ∧ RunAgree t t'

theorem EndsLike.of_step {t s' u' : State} (h : EndsLike t u') (hb : s'.busy = true) (hs : step s' = .next u') :
    EndsLike t s' := by
  obtain ⟨n', t', hend, hagree⟩ := h
  exact ⟨n' + 1, t', (runEndsAt_succ_iff hb hs).2 hend, hagree⟩

/-- No reset is among the turns to come. -/
def State.NoReset (s : State) : Prop := ∀ cut, .reset cut ∉ s.turns

theorem State.NoReset.of_tail {s u : State} (h : s.NoReset) (hu : u.turns = s.turns.tail) : u.NoReset :=
  fun cut hm => h cut (List.mem_of_mem_tail (hu ▸ hm))

theorem State.NoReset.turn_ne {s : State} (h : s.NoReset) (cut : BitVec 32) : s.turn ≠ .reset cut := by
  have hcut := h cut
  rw [State.turn]
  cases hts : s.turns with
  | nil => nofun
  | cons a ts =>
    rintro rfl
    exact hcut (by simp [hts])

/-- A host access during a run changes nothing that the run reads (R217). -/
theorem hostStep_runView {s u : State} {a : HostAccess} (hb : s.busy = true) (h : s.popTurn.hostStep a = u) :
    u.runView = s.runView ∧ u.turns = s.turns.tail := by
  obtain ⟨heq, -⟩ := hostStep_busy (s := s.popTurn) hb h
  rw [heq]
  exact ⟨rfl, rfl⟩

/-- The host turns that come first in a run can be taken out: the sequencer's turn after them finds the same view. -/
theorem exists_sequencer_turn {s : State} (hb : s.busy = true) (hreset : s.NoReset) (t : State) :
    ∃ u : State, u.runView = s.runView ∧ u.NoReset ∧ u.turn = .sequencer ∧ (EndsLike t u → EndsLike t s) := by
  induction hts : s.turns generalizing s with
  | nil => exact ⟨s, rfl, hreset, State.turn_of_turns_nil hts, id⟩
  | cons a ts ih =>
    have hturn : s.turn = a := by rw [State.turn, hts]; rfl
    cases a with
    | sequencer => exact ⟨s, rfl, hreset, hturn, id⟩
    | reset cut => exact absurd hturn (hreset.turn_ne cut)
    | host a =>
      have hs : step s = .next (s.popTurn.hostStep a) := by rw [step, takeTurn, hturn]
      obtain ⟨hview, hturns⟩ := hostStep_runView hb (a := a) rfl
      obtain ⟨u, hu, hureset, huturn, hback⟩ := ih ((congrArg RunView.busy hview).trans hb)
        (hreset.of_tail hturns) (by rw [hturns, hts]; rfl)
      exact ⟨u, hu.trans hview, hureset, huturn, fun h => (hback h).of_step hb hs⟩

/-- A run that looks like one that ends without an RND ends like it: host turns of either leave the view alone, and at the
sequencer's turns both take one effect, which ends both or neither. -/
theorem endsLike_of_runEndsAt {n : Nat} {s s' t : State} (hb : s.busy = true) (hview : s'.runView = s.runView)
    (hreset : s.NoReset) (hreset' : s'.NoReset) (hend : RunEndsAt n s t) (hno : FetchesNoRnd n s) : EndsLike t s' := by
  induction n generalizing s s' with
  | zero =>
    obtain ⟨hrun, hidle, -⟩ := hend
    injection hrun with hrun
    exact absurd (hrun ▸ hb) (ne_true_of_eq_false hidle)
  | succ n ih =>
    obtain ⟨u, hs, -⟩ := runSteps_succ_next hend.1
    have hendu := (runEndsAt_succ_iff hb hs).1 hend
    obtain ⟨-, hseq⟩ | ⟨a, -, hhost⟩ | ⟨cut, hcut, -⟩ := step_cases hs
    · obtain ⟨e, he, rfl⟩ := seqStep_busy_next (s := s.popTurn) hb hseq
      have hb' : s'.busy = true := (congrArg RunView.busy hview).trans hb
      obtain ⟨v, hv, hvreset, hvturn, hback⟩ := exists_sequencer_turn hb' hreset' t
      have hsv : v.runView = s.runView := hv.trans hview
      have hbv : v.busy = true := (congrArg RunView.busy hsv).trans hb
      have hrng := usesRng_eq_false_of_fetchesNoRnd (s₀ := s.popTurn) hno hb rfl he
      have hev : FetchedEffect v.popTurn e := he.of_runView hrng hsv
      have hstep : step v = .next (e.apply v.popTurn) := (step_sequencer hvturn).trans (hev.seqStep_eq hbv)
      have hnext : (e.apply v.popTurn).runView = (e.apply s.popTurn).runView := e.runView_apply hsv
      refine hback (EndsLike.of_step ?_ hbv hstep)
      cases hbu : (e.apply s.popTurn).busy
      · have hidle : (e.apply v.popTurn).busy = false := (congrArg RunView.busy hnext).trans hbu
        obtain ⟨hdone, hcsr⟩ := Effect.done_pcCsr_of_ends (s := s.popTurn) (s' := v.popTurn) hb hsv hbu
        obtain rfl := runEndsAt_eq_of_idle hendu hbu
        exact ⟨0, _, runEndsAt_zero hidle, (runAgree_iff.2 ⟨hnext, hdone, fun _ => hcsr⟩).1⟩
      · exact ih hbu hnext (hreset.of_tail (e.sameHostSpaces s.popTurn).turns)
          (hvreset.of_tail (e.sameHostSpaces v.popTurn).turns) hendu (fetchesNoRnd_of_step hno hs)
    · obtain ⟨hu, huturns⟩ := hostStep_runView hb hhost
      exact ih ((congrArg RunView.busy hu).trans hb) (hview.trans hu.symm) (hreset.of_tail huturns) hreset' hendu
        (fetchesNoRnd_of_step hno hs)
    · exact absurd hcut (hreset.turn_ne cut)

/-- Settles O13: an instruction but RND takes one effect wherever the data and STRICT are the same, and an effect is a
function of what the run reads; so like runs stay alike, in lockstep (`runSteps_agree`) and with host turns between
(`endsLike_of_runEndsAt`). -/
theorem runIsFunctionOfItsInputs : Obligations.RunIsFunctionOfItsInputs := by
  unfold Obligations.RunIsFunctionOfItsInputs
  refine ⟨fun i s s' hi hf hs hflags hmem hstrict => ?_, fun s s' hmem hentry hstrict => ?_,
    fun s s' n hpc hturns hturns' hagree hword hno => runSteps_agree hpc hturns hturns' hagree hword hno,
    fun s s' t n hb hagree hword hreset hreset' hend hno =>
      endsLike_of_runEndsAt hb (runAgree_iff.1 ⟨hagree, hword⟩).1 hreset hreset' hend hno⟩
  · have hdata := dataView_eq_iff.2 ⟨hf, hs, hflags, hmem⟩
    have heffect := effect_eq_of_dataView hi hdata hstrict
    obtain ⟨hf', hs', hflags', hmem'⟩ := dataView_eq_iff.1 ((effect i s).dataView_apply hdata)
    refine ⟨_, _, exec_eq_effect i s, exec_eq_effect i s', ?_⟩
    rw [heffect, Effect.retired_iff, Effect.retired_iff]
    exact ⟨hf', hs', hflags', hmem', Iff.rfl⟩
  · simpa [RunAgree, SameFields, SameScalars, SameFlags, SameMemory, hentry, hstrict] using hmem

end Sys2Proof.Machine
end

section
/-! PROOFS. The traps: FETCH_BOUND at the end of IMEM (R702), and that what a trap of an instruction records depends on the
instruction and pc alone (R711). -/

namespace Sys2Proof.Machine

/-! ### The fetch beyond IMEM (R702) -/

/-- An instruction other than HALT that is counted retires: a trap is not counted, and neither is an RND that waits. -/
theorem retired_of_counted {i : Instr} {s t : State} (h : exec i s = .next t) (hi : i ≠ .halt)
    (hcount : t.retired = s.retired + 1) : Retired s t := by
  obtain rfl := exec_next_iff.1 h
  have hne : s.retired ≠ s.retired + 1 := by bv_omega
  obtain ⟨-, hret, -⟩ | ⟨hhalt, -⟩ | ⟨c, -, htrap⟩ | ⟨d, -, -, hawait⟩ := effect_outcome i s
  · exact hret
  · exact absurd hhalt hi
  · obtain ⟨-, -, -, -, hsame⟩ := htrap
    exact absurd (hsame.symm.trans hcount) hne
  · rw [hawait, State.awaitRng_retired] at hcount
    exact absurd hcount hne

/-- Settles O8: the cycle at pc = 8192 is the trap (`seqStep_bound`), and an instruction at 8191 that is counted moves pc on
by one. -/
theorem fetchBeyondImemTraps : Obligations.FetchBeyondImemTraps := by
  unfold Obligations.FetchBeyondImemTraps
  constructor
  · intro s hturn hb hpc
    rw [step_sequencer hturn]
    exact ⟨_, seqStep_bound (s := s.popTurn) hb hpc, takeTrap_spec .., takeTrap_rng s.popTurn _, rfl, hpc⟩
  · intro i s t hpc h hcount hi
    obtain ⟨hnext, -⟩ := retired_of_counted h hi hcount
    rw [hnext]
    bv_omega

/-! ### What a trap records (R711) -/

/-- An instruction other than HALT that ends the run does it by a trap with its own cause. -/
theorem trapped_of_ends {i : Instr} {s t : State} (h : exec i s = .next t) (hi : i ≠ .halt) (hb : s.busy = true)
    (hend : t.busy = false) : ∃ c, ownCause i = some c ∧ Trapped c s t := by
  obtain rfl := exec_next_iff.1 h
  obtain ⟨-, -, hsame⟩ | ⟨hhalt, -⟩ | htrap | ⟨d, -, -, hawait⟩ := effect_outcome i s
  · obtain ⟨-, -, -, -, hbusy, -⟩ := hsame
    exact absurd (hbusy.trans hb) (ne_true_of_eq_false hend)
  · exact absurd hhalt hi
  · exact htrap
  · rw [hawait] at hend
    exact absurd hb (ne_true_of_eq_false hend)

/-- Settles O19: each of the two runs ends by a trap (`trapped_of_ends`), with the one cause of the instruction;
EPC and the PC CSR are pc, and the registers and flags are zeroized. -/
theorem trapRecordsRevealNoData : Obligations.TrapRecordsRevealNoData := by
  unfold Obligations.TrapRecordsRevealNoData
  intro i s s' t t' hpc hb hb' h h' hi hend hend'
  obtain ⟨c, hown, ⟨⟨hf, hs, hc, hsg⟩, -, -, hcsr, -⟩, hcause, hepc, hfault, -⟩ := trapped_of_ends h hi hb hend
  obtain ⟨c', hown', ⟨⟨hf', hs', hc', hsg'⟩, -, -, hcsr', -⟩, hcause', hepc', hfault', -⟩ :=
    trapped_of_ends h' hi hb' hend'
  have hsame : c' = c := Option.some.inj (hown'.symm.trans hown)
  simp only [hcause, hcause', hsame, hepc, hepc', hpc, hfault, hfault', hcsr, hcsr', hf, hf', hs, hs', hc, hc', hsg, hsg',
    implies_true, and_self]

end Sys2Proof.Machine
end

section
/-! PROOFS. A run ends within one turn for each word from pc on and one fetch more, or stands for good at an RND that gets
no answer (R811). -/

namespace Sys2Proof.Machine

/-! ### How far a run goes -/

/-- The run stands at an RND whose answer never comes (R811; log entry 5). -/
def State.AtSilentRnd (s : State) : Prop :=
  (∃ sd, decode (s.imemWord s.pc.toNat) = .ok (.rnd sd)) ∧ s.pc.toNat < imemWords ∧ s.rngAnswer = .silent

/-- An effect that neither retires nor waits for an answer ends the run. -/
theorem Effect.ends_of_not_retires {e : Effect} (hr : e.retires = false) (hwait : e ≠ .await) (s : State) :
    (e.apply s).busy = false := by
  cases e with
  | halt | trap | rngFailed => rfl
  | await => exact absurd rfl hwait
  | _ => cases hr

theorem Effect.retired_apply_le (e : Effect) (s : State) : (e.apply s).retired.toNat ≤ s.retired.toNat + 1 := by
  obtain ⟨⟨-, hret⟩, -⟩ | ⟨-, hret, -⟩ | ⟨c, -, -, -, -, hret⟩ | hawait := e.apply_cases s
  · rw [hret]; bv_omega
  · rw [hret]; bv_omega
  · rw [hret]; omega
  · rw [hawait]; exact Nat.le_succ _

/-- Only an RND whose answer does not come waits. -/
theorem FetchedEffect.atSilentRnd {s : State} {e : Effect} (h : FetchedEffect s e) (he : e = .await) : s.AtSilentRnd := by
  cases h with
  | bound | illegal => cases he
  | instr i hpc hd =>
    obtain ⟨d, rfl⟩ := (effect_usesRng i s).1 (by rw [he]; rfl)
    exact ⟨⟨d, hd⟩, hpc, Effect.ofAnswer_eq_await he⟩

/-- During a run no more than 8192 - ENTRY instructions are counted, and the cycle at pc = 8192 counts none. -/
theorem FetchedEffect.retired_le {s : State} {e : Effect} (h : FetchedEffect s e) (hinv : s.Inv) (hb : s.busy = true) :
    (e.apply s).retired.toNat ≤ imemWords - s.entry.toNat := by
  have hcount := hinv.pc_eq hb
  have hle := hinv.pc_le
  cases h with
  | bound | illegal =>
    show s.retired.toNat ≤ _
    omega
  | instr i hpc =>
    have := (effect i s).retired_apply_le s
    omega

/-- From a state of a run the sequencer alone comes to rest within one turn for each word from pc on and one fetch more:
a cycle that retires leaves a word fewer, any other ends the run or stands at an RND without an answer. -/
theorem State.Inv.comesToRest {s : State} (hinv : s.Inv) (hb : s.busy = true) (hturns : s.turns = []) :
    ∃ n t, n ≤ imemWords + 1 - s.pc.toNat ∧ runSteps n s = .next t ∧
      t.retired.toNat ≤ imemWords - s.entry.toNat ∧ (t.busy = false ∨ t.AtSilentRnd) := by
  obtain ⟨e, he, hseq⟩ := seqStep_fetched hb hinv.pc_le
  have hstep : step s = .next (e.apply s) := (step_of_turns_nil hturns).trans hseq
  cases hr : e.retires
  · have hcount := hinv.pc_eq hb
    have hle := hinv.pc_le
    by_cases hwait : e = .await
    · exact ⟨0, s, Nat.zero_le _, rfl, by omega, .inr (he.atSilentRnd hwait)⟩
    · exact ⟨1, _, by omega, runSteps_succ hstep 0, he.retired_le hinv hb, .inl (Effect.ends_of_not_retires hr hwait s)⟩
  · obtain ⟨⟨hpc, -⟩, hsame⟩ := Effect.retired_of_retires hr s
    obtain ⟨-, hentry, -, -, hbusy, -⟩ := hsame
    have hlt := he.pc_lt_of_retires hr
    have hnext : (e.apply s).pc.toNat = s.pc.toNat + 1 := by
      simp only [imemWords] at hlt
      rw [hpc]
      bv_omega
    obtain ⟨n, t, hn, hrun, hret, hrest⟩ :=
      comesToRest (hinv.apply hb he) (hbusy.trans hb) ((e.sameHostSpaces s).turns.trans hturns)
    exact ⟨n + 1, t, by omega, (runSteps_succ hstep n).trans hrun, hentry ▸ hret, hrest⟩
termination_by imemWords - s.pc.toNat

/-- A state whose step changes nothing is the state after any number of steps. -/
theorem runSteps_of_step_self {s : State} (h : step s = .next s) (n : Nat) : runSteps n s = .next s := by
  induction n with
  | zero => rfl
  | succ n ih => exact (runSteps_succ h n).trans ih

/-! ### An RND without an answer -/

/-- At an RND without an answer each cycle leaves the request in flight, and nothing else changes. -/
theorem State.AtSilentRnd.step_eq {s : State} (h : s.AtSilentRnd) (hb : s.busy = true) (hturns : s.turns = []) :
    step s = .next s.awaitRng := by
  obtain ⟨⟨d, hd⟩, hpc, hsilent⟩ := h
  rw [step_of_turns_nil hturns, seqStep_instr hb hpc hd, exec_rnd_silent s hsilent]

theorem State.AtSilentRnd.runSteps_eq {s : State} (h : s.AtSilentRnd) (hb : s.busy = true) (hturns : s.turns = [])
    (n : Nat) : ∃ t, runSteps n s = .next t ∧ (t = s ∨ t = s.awaitRng) := by
  cases n with
  | zero => exact ⟨s, rfl, .inl rfl⟩
  | succ n =>
    have hstay : step s.awaitRng = .next s.awaitRng := State.AtSilentRnd.step_eq (s := s.awaitRng) h hb hturns
    exact ⟨_, (runSteps_succ (h.step_eq hb hturns) n).trans (runSteps_of_step_self hstay n), .inr rfl⟩

/-- Settles O12: a run comes to rest by recursion on the words from pc on (`State.Inv.comesToRest`), and at an RND without
an answer only the request in flight is new (`State.AtSilentRnd.runSteps_eq`). -/
theorem everyRunEndsOrAwaitsRng : Obligations.EveryRunEndsOrAwaitsRng := by
  unfold Obligations.EveryRunEndsOrAwaitsRng
  refine ⟨fun s hinv hb hturns => hinv.comesToRest hb hturns, fun s sd n hb hturns hpc hd hsilent => ?_⟩
  obtain ⟨t, hrun, rfl | rfl⟩ := State.AtSilentRnd.runSteps_eq ⟨⟨sd, hd⟩, hpc, hsilent⟩ hb hturns n
  all_goals exact ⟨_, hrun, rfl, hb, rfl, fun _ => rfl, fun _ => rfl, ⟨rfl, rfl⟩, fun _ => rfl⟩

end Sys2Proof.Machine
end

section
/-! PROOFS. Reset: the values it gives, the memories it keeps and the store it cuts (R800 to R803); and an accepted START
(R805). -/

namespace Sys2Proof.Machine

/-! ### The store a reset cuts (R802) -/

/-- Byte `j` of a store that a reset cuts is the value's where `cut` marks it, and the old byte elsewhere (R802). -/
theorem State.dmemByte_memWriteCut_inside (s : State) (cut : BitVec 32) (a n i v j : Nat) (h : j < n) :
    (s.memWriteCut cut a n i v).dmemByte (a + j) =
      if cut.getLsbD (i + j) then BitVec.ofNat 8 (v / 256 ^ j) else s.dmemByte (a + j) := by
  induction n generalizing s a i v j with
  | zero => omega
  | succ n ih =>
    rw [State.memWriteCut]
    cases j with
    | zero =>
      rw [State.dmemByte_memWriteCut_outside _ _ _ _ _ _ _ (by omega)]
      split <;> simp_all
    | succ j =>
      rw [show a + (j + 1) = a + 1 + j by omega, ih _ _ _ _ _ (by omega), show i + 1 + j = i + (j + 1) by omega,
        Nat.div_div_eq_div_mul, Nat.pow_succ']
      congr 1
      split
      · rw [State.dmemByte_setByte, if_neg (by omega)]
      · rfl

@[simp] theorem State.memWriteCut_powerOn (s : State) (cut : BitVec 32) (a n i v : Nat) :
    (s.memWriteCut cut a n i v).powerOn = s.powerOn := by
  induction n generalizing s a i v with
  | zero => rfl
  | succ n ih =>
    rw [State.memWriteCut, ih]
    split <;> rfl

theorem State.cutStore_of_none {s : State} (h : s.storeInProgress = none) (cut : BitVec 32) : s.cutStore cut = s := by
  rw [State.cutStore, h]

theorem State.cutStore_of_some {s : State} {k : Slot} {v : Nat} (h : s.storeInProgress = some (k, v)) (cut : BitVec 32) :
    s.cutStore cut = s.memWriteCut cut (slotOffset k) 32 0 v := by
  rw [State.cutStore, h]

@[simp] theorem State.cutStore_powerOn (s : State) (cut : BitVec 32) : (s.cutStore cut).powerOn = s.powerOn := by
  cases h : s.storeInProgress with
  | none => rw [State.cutStore_of_none h]
  | some p => rw [State.cutStore_of_some h, State.memWriteCut_powerOn]

/-- What reset leaves in DMEM is what the store it cuts leaves. -/
theorem State.dmemByte_assertReset (s : State) (cut : BitVec 32) (a : Nat) :
    (s.assertReset cut).dmemByte a = (s.cutStore cut).dmemByte a :=
  State.dmemByte_congr (s := s.cutStore cut) (t := s.assertReset cut) rfl (s.cutStore_powerOn cut).symm a

/-- The store a reset cuts is the STF or STS that the run stands at (R802). -/
theorem State.storeInProgress_eq_some {s : State} {k : Slot} {v : Nat} (h : s.storeInProgress = some (k, v)) :
    (∃ r, decode (s.imemWord s.pc.toNat) = .ok (.stf k r) ∧ v = (s.readF r).val) ∨
      (∃ r, decode (s.imemWord s.pc.toNat) = .ok (.sts k r) ∧ v = (s.readS r).toNat) := by
  unfold State.storeInProgress at h
  split at h
  · split at h
    · next k' r hd =>
      cases h
      exact .inl ⟨r, hd, rfl⟩
    · next k' r hd =>
      cases h
      exact .inr ⟨r, hd, rfl⟩
    · cases h
  · cases h

/-! ### The state after reset (R800, R801, R803) -/

/-- Settles O21: the registers are those of `State.reset`, and DMEM is what the cut store leaves byte by byte. -/
theorem resetKeepsMemories : Obligations.ResetKeepsMemories := by
  unfold Obligations.ResetKeepsMemories
  intro s cut ts hs
  obtain ⟨hf, hsc, -, -⟩ := State.zeroized_reset
  refine ⟨_, step_reset hs, fun r => congrArg Fin.val (hf r), hsc, rfl, rfl, rfl, rfl, rfl, rfl, rfl, rfl, rfl, rfl, rfl, rfl,
    rfl, rfl, rfl, fun _ => rfl, fun hnone a => ?_, fun k v hsome => ⟨fun a ha => ?_, fun j hj => ?_⟩,
    fun k v hsome => State.storeInProgress_eq_some hsome⟩
  · rw [State.dmemByte_assertReset, State.cutStore_of_none (s := { s with turns := ts }) hnone]
    rfl
  · rw [State.dmemByte_assertReset, State.cutStore_of_some (s := { s with turns := ts }) hsome,
      State.dmemByte_memWriteCut_outside _ _ _ _ _ _ _ ha]
    rfl
  · rw [State.dmemByte_assertReset, State.cutStore_of_some (s := { s with turns := ts }) hsome,
      State.dmemByte_memWriteCut_inside _ _ _ _ _ _ _ hj, Nat.zero_add]
    rfl

/-- Settles O10: the state after reset is what a reset makes of itself, whose memories list nothing. -/
theorem resetMeetsInvariant : Obligations.ResetMeetsInvariant :=
  State.inv_assertReset (s := State.reset) rfl rfl 0

/-- Settles O20: the registers are zeroized, and while idle each CSR reads the value of its own field. -/
theorem resetValues : Obligations.ResetValues := by
  unfold Obligations.ResetValues
  obtain ⟨hf, hs, hc, hsg⟩ := State.zeroized_reset
  exact ⟨fun r => congrArg Fin.val (hf r), hs, hc, hsg, by decide⟩

/-! ### START (R805) -/

theorem State.zeroized_acceptStart (s : State) : s.acceptStart.Zeroized := by
  simp [State.Zeroized]

/-- Settles O22: the write is that of CTRL with START while idle, and `State.acceptStart` is its one action. -/
theorem acceptedStart : Obligations.AcceptedStart := by
  unfold Obligations.AcceptedStart
  intro s ha w ts hs h hi hw
  have hstart := State.writeCtrl_start (s := { s with turns := ts }) hi hw
  exact ⟨_, (step_csrWrite hs (by decide) h).trans (congrArg _ hstart), rfl, rfl, rfl, rfl, rfl, rfl, rfl,
    State.zeroized_acceptStart _, State.acceptStart_pc_toNat _, rfl, rfl, rfl, rfl, rfl, rfl, rfl⟩

end Sys2Proof.Machine
end
